-- ==== Sys2Proof/Word.lean ====
section
/-! DEFINITION. The widths of CORE's values (R8, R9), each an unsigned bit vector (R12), bits
numbered from 0 at the least significant end (R11). -/

namespace Sys2Proof

/-- The operation-select port OP, 3 bits (R9, R26). -/
abbrev OpCode := BitVec 3

/-- A port of 64 bits: the operands A and B, the results Y0 and Y1 (R9, R26). -/
abbrev Port := BitVec 64

/-- W_HALF: a half-block L or R, and the Substitution and Permutation values, 32 bits (R8). -/
abbrev Half := BitVec 32

/-- W_SUBKEY and W_EXP: a round subkey, and the Expansion output, 48 bits (R8). -/
abbrev Wide := BitVec 48

/-- W_KEY: the master key, 56 bits (R8). -/
abbrev MasterKey := BitVec 56

/-- A 6-bit group of a 48-bit value, and an index of a substitution table (R8, R15). -/
abbrev Group := BitVec 6

/-- SBOX_OUT: an entry of a substitution table, 4 bits (R8, R15). -/
abbrev Nibble := BitVec 4

end Sys2Proof
end

