-- ==== Sys2Proof/Syntax.lean ====
section
/-! DEFINITION. CORE's operations as syntax: one constructor per row of spec/opcode_table.json (R49),
carrying the whole port values the operation reads (R47, R54), and the command a host presents (R45,
R46). -/

namespace Sys2Proof

/-- A command of the one format CMD (R45, R46): the value on OP and the two operands on A and B. -/
structure Command where
  op : OpCode
  a : Port
  b : Port
deriving DecidableEq, Repr

/-- The operations of R49. A one-operand operation carries A alone: it ignores B (R51, R54). -/
inductive Instr where
  /-- OP 0, EXPAND (R60). -/
  | expand (a : Port)
  /-- OP 1, SUBSTITUTE (R65). -/
  | substitute (a : Port)
  /-- OP 2, PERMUTE (R73). -/
  | permute (a : Port)
  /-- OP 3, FEISTEL_ROUND: the half-block on A, the subkey on B (R81). -/
  | feistelRound (a b : Port)
  /-- OP 4, DERIVE_SUBKEYS: the master key on A (R88). -/
  | deriveSubkeys (a : Port)
  /-- OP 5, ENCRYPT_BLOCK: the master key on A, the plaintext block on B (R96, C6). -/
  | encryptBlock (a b : Port)
  /-- OP 6, SBOX_LOOKUP: the table select on A, the index on B (R66). -/
  | sboxLookup (a b : Port)
  /-- OP 7, reserved: it selects no operation (R53). -/
  | reserved
deriving DecidableEq, Repr

end Sys2Proof
end

