-- ==== Sys2Proof/WellFormed.lean ====
section
/-! DEFINITION. What a host is asked to present: no reserved operation (R53), and operands already
within their source widths (R102: callers "are responsible for ensuring a '56-bit key' and '64-bit
block' are pre-validated"; the widths are those of R51). CORE checks none of it: decoding and the
meanings cover every instruction, well-formed or not (R102). DESIGN CHOICE, log 7. -/

namespace Sys2Proof

/-- "software must not issue it" (R53). -/
def Instr.mayBeIssued : Instr → Bool
  | .expand _ => true
  | .substitute _ => true
  | .permute _ => true
  | .feistelRound _ _ => true
  | .deriveSubkeys _ => true
  | .encryptBlock _ _ => true
  | .sboxLookup _ _ => true
  | .reserved => false

/-- A port value that fits in `n` bits. -/
def fitsIn (n : Nat) (p : Port) : Bool := decide (p.toNat < 2 ^ n)

/-- Every operand fits the field R51 lists for it, so that no bit of it is ignored. -/
def Instr.preValidated : Instr → Bool
  | .expand a => fitsIn 32 a
  | .substitute a => fitsIn 48 a
  | .permute a => fitsIn 32 a
  | .feistelRound a b => fitsIn 32 a && fitsIn 48 b
  | .deriveSubkeys a => fitsIn 56 a
  | .encryptBlock a _ => fitsIn 56 a
  | .sboxLookup a b => fitsIn 3 a && fitsIn 6 b
  | .reserved => true

/-- A well-formed instruction: one a careful host presents. -/
def Instr.wf (i : Instr) : Bool := i.mayBeIssued && i.preValidated

end Sys2Proof
end

