-- ==== Sys2Proof/Decode.lean ====
section
/-! DEFINITION. Decoding a command, and encoding it back. The hardware's decoder reads exactly the 3
bits of OP (R45, R50). The 131-bit packing of R46 writes a command as one number; a number that does
not fit in 131 bits is no command and is rejected by name. -/

namespace Sys2Proof

/-- The decoder (R49, R50): total on OP, and no operand value affects which operation is selected. -/
def decodeCommand (c : Command) : Instr :=
  match c.op.toNat with
  | 0 => .expand c.a
  | 1 => .substitute c.a
  | 2 => .permute c.a
  | 3 => .feistelRound c.a c.b
  | 4 => .deriveSubkeys c.a
  | 5 => .encryptBlock c.a c.b
  | 6 => .sboxLookup c.a c.b
  | _ => .reserved

/-- The canonical packing `{OP[2:0], A[63:0], B[63:0]}`, OP most significant (R46). -/
def Command.pack (c : Command) : BitVec 131 := c.op ++ c.a ++ c.b

/-- The command a 131-bit packing stands for (R46). -/
def Command.unpack (w : BitVec 131) : Command :=
  { op := w.extractLsb' 128 3, a := w.extractLsb' 64 64, b := w.extractLsb' 0 64 }

/-- Why a number is no command. -/
inductive DecodeError where
  /-- The number does not fit in the 131 bits of a packed command (R46). -/
  | widerThanACommand
deriving DecidableEq, Repr

/-- Decoding of a packed command, total on any number. DESIGN CHOICE, log 6. -/
def decode (n : Nat) : Except DecodeError Instr :=
  if n < 2 ^ 131 then .ok (decodeCommand (Command.unpack (BitVec.ofNat 131 n)))
  else .error .widerThanACommand

/-- The command a row of spec/opcode_table.json stands for: the table's bits 2 to 0 are OP, it gives
the operands no bits, so A and B are zero. A bit of the word above bit 2 is no bit of OP. DESIGN CHOICE,
log 6. -/
def commandOfTableWord (nbits w : Nat) : Command :=
  { op := BitVec.ofNat 3 (w % 2 ^ nbits), a := 0, b := 0 }

/-- The instruction the decoder reads from a row's word. -/
def decodeTableWord (nbits w : Nat) : Option Instr :=
  match decode (commandOfTableWord nbits w).pack.toNat with
  | .ok i => some i
  | .error _ => none

/-- The operation code of an instruction (R49). -/
def Instr.opcode : Instr → OpCode
  | .expand _ => 0b000
  | .substitute _ => 0b001
  | .permute _ => 0b010
  | .feistelRound _ _ => 0b011
  | .deriveSubkeys _ => 0b100
  | .encryptBlock _ _ => 0b101
  | .sboxLookup _ _ => 0b110
  | .reserved => 0b111

/-- The value an instruction's command has on A. -/
def Instr.portA : Instr → Port
  | .expand a => a
  | .substitute a => a
  | .permute a => a
  | .feistelRound a _ => a
  | .deriveSubkeys a => a
  | .encryptBlock a _ => a
  | .sboxLookup a _ => a
  | .reserved => 0

/-- The value an instruction's command has on B: 0 in the canonical packing of a one-operand operation
(R54). -/
def Instr.portB : Instr → Port
  | .expand _ => 0
  | .substitute _ => 0
  | .permute _ => 0
  | .feistelRound _ b => b
  | .deriveSubkeys _ => 0
  | .encryptBlock _ b => b
  | .sboxLookup _ b => b
  | .reserved => 0

/-- The command a host presents for an instruction. -/
def encodeCommand (i : Instr) : Command := { op := i.opcode, a := i.portA, b := i.portB }

/-- The packed command of an instruction (R46, R54). -/
def encode (i : Instr) : BitVec 131 := (encodeCommand i).pack

/-- The mnemonic of an instruction (R49). -/
def Instr.mnemonic : Instr → String
  | .expand _ => "EXPAND"
  | .substitute _ => "SUBSTITUTE"
  | .permute _ => "PERMUTE"
  | .feistelRound _ _ => "FEISTEL_ROUND"
  | .deriveSubkeys _ => "DERIVE_SUBKEYS"
  | .encryptBlock _ _ => "ENCRYPT_BLOCK"
  | .sboxLookup _ _ => "SBOX_LOOKUP"
  | .reserved => "(reserved)"

/-- The sixteen hexadecimal digits. -/
def hexDigits : List Char :=
  ['0', '1', '2', '3', '4', '5', '6', '7', '8', '9', 'A', 'B', 'C', 'D', 'E', 'F']

/-- A value as a hexadecimal literal of sixteen digits, the most significant first (R54). -/
def hexLiteral (p : Port) : String :=
  String.ofList ('0' :: 'x' :: (List.range 16).map fun i =>
    hexDigits.getD (p.extractLsb' (60 - 4 * i) 4).toNat '0')

/-- The line the spec writes for a transaction, `MNEMONIC A_value [, B_value]` (R54): the operands the
operation takes, none for the reserved code. -/
def Instr.line (i : Instr) : String :=
  match i with
  | .expand a => i.mnemonic ++ " " ++ hexLiteral a
  | .substitute a => i.mnemonic ++ " " ++ hexLiteral a
  | .permute a => i.mnemonic ++ " " ++ hexLiteral a
  | .feistelRound a b => i.mnemonic ++ " " ++ hexLiteral a ++ ", " ++ hexLiteral b
  | .deriveSubkeys a => i.mnemonic ++ " " ++ hexLiteral a
  | .encryptBlock a b => i.mnemonic ++ " " ++ hexLiteral a ++ ", " ++ hexLiteral b
  | .sboxLookup a b => i.mnemonic ++ " " ++ hexLiteral a ++ ", " ++ hexLiteral b
  | .reserved => i.mnemonic

end Sys2Proof
end

