-- ==== Sys2Proof/Config.lean ====
section
/-! DEFINITION. The four open parameters of R10, each an opaque constant with no body: nothing can be
proved of a value of theirs. What the spec does fix of the two tables is added where the tables are
built (Machine/Tables.lean). -/

namespace Sys2Proof

/-- The open part of SBOX_TABLES: entries 1 to 63 of the eight tables, which the spec does not give
(R17, D8). `Config.sboxTail t e` is entry `e + 1` of table number `t + 1`. DESIGN CHOICE of the form,
log 1. -/
opaque Config.sboxTail : Fin 8 → Fin 63 → Nibble

/-- The open part of PERM_TABLE (R19, D9): the order in which the 31 values of 1 to 32 other than 16
stand in entries 1 to 31. A permutation of 31 things, so that R18 holds whatever it is. DESIGN CHOICE
of the form, log 2. -/
opaque Config.permTail : Equiv.Perm (Fin 31)

/-- The values CORE_LATENCY may take (R124, D13). -/
inductive Latency where
  /-- The results are valid a settling time after the inputs, with no clock edge between. -/
  | combinational
  /-- A fixed number of clock cycles from issue to result. -/
  | cycles (n : Nat)
deriving DecidableEq, Repr, Inhabited

/-- CORE_LATENCY (R10, R124, D13). The atomic step does not read it; the clocked layer of
Machine/Concurrent.lean does. -/
opaque Config.coreLatency : Latency

/-- HOST_BYTE_ORDER (R10, R34, D10): which byte of a 64-bit port value, counted from the least
significant, a host stores at each of eight positions. No rule of CORE reads it. DESIGN CHOICE of the
form, log 11. -/
opaque Config.hostByteOrder : Equiv.Perm (Fin 8)

end Sys2Proof
end

