-- ==== Sys2Proof/Machine/Tables.lean ====
section
/-! DEFINITION. The two constant tables (R15 to R19): their layout, the entries the spec pins, and the
contents a chip has from power-up, the open entries taken from Config. -/

namespace Sys2Proof.Machine

/-- The table ROM. `sbox[t][e]` is SBOX_TABLES[t + 1][e]: eight tables of 64 entries of 4 bits (R15).
`perm[j]` is PERM_TABLE[j] - 1: "A 5-bit field holding PERM_TABLE[j] - 1 stores an entry exactly"
(R18, D9). -/
structure Tables where
  sbox : Vector (Vector Nibble 64) 8
  perm : Vector (Fin 32) 32
deriving DecidableEq, Repr

/-- SBOX_TABLES[t + 1][0] for the eight tables (R16): 3, 13, 14, 10, 7, 2, 12, 4. -/
def pinnedSbox : Vector Nibble 8 := #v[0x3, 0xD, 0xE, 0xA, 0x7, 0x2, 0xC, 0x4]

/-- PERM_TABLE[0] is 16 (R19), held as 15. -/
def pinnedPerm : Fin 32 := 15

/-- Substitution table number `t + 1` of the chip: the pinned entry 0, then the open entries (R16,
R17). -/
def chipSbox (t : Fin 8) : Vector Nibble 64 :=
  Vector.ofFn (Fin.cases pinnedSbox[t] (Config.sboxTail t))

/-- The permutation table of the chip: 16 in entry 0, and the 31 other values in the open order (R18,
R19). -/
def chipPerm : Vector (Fin 32) 32 :=
  Vector.ofFn (Fin.cases pinnedPerm (fun j => pinnedPerm.succAbove (Config.permTail j)))

/-- The tables' constant contents (R20, R29). -/
def chipTables : Tables := { sbox := Vector.ofFn chipSbox, perm := chipPerm }

end Sys2Proof.Machine
end

