-- ==== Sys2Proof/Machine/State.lean ====
section
/-! DEFINITION. The machine's state: the two tables, which are CORE's only architectural state (R15 to
R20), the five ports of its interface (R26), and the refused mark of the model (R110). CORE has no
register file, program counter, flag, control register, memory or exception register (R22 to R25, R30,
R107), so none stands here. -/

namespace Sys2Proof.Machine

/-- One transaction's results, the values on Y0 and Y1 (R26, R48). -/
structure Result where
  y0 : Port
  y1 : Port
deriving DecidableEq, Repr

/-- The state. -/
structure State where
  /-- SBOX_TABLES and PERM_TABLE (R15, R18), constants (R20). -/
  tables : Tables
  /-- The input port OP, driven by the host (R26, R29). -/
  op : OpCode
  /-- The input port A, driven by the host (R26, R29). -/
  a : Port
  /-- The input port B, driven by the host (R26, R29). -/
  b : Port
  /-- The output ports Y0 and Y1: the last transaction's results, and none where no result exists
  (R29: "no result exists before the first transaction"). -/
  result : Option Result
  /-- The refused mark (R110): set once a host has issued a transaction with OP = 7. -/
  refused : Bool
deriving DecidableEq, Repr

/-- CORE has no fault: "each call either completes and returns a value or — never — faults" (R101);
"There is no fault outcome" (R111). So no definition raises one, and the type is empty. -/
inductive Fault where
deriving DecidableEq, Repr

/-- Why a transaction is given no meaning. -/
inductive Refusal where
  /-- An operation rejected by name in Dispatch.lean, for one that has no meaning yet; every operation
  of CORE has its meaning, so nothing raises it. Safe: a run that met it would have no result. -/
  | notModelled (mnemonic : String)
  /-- OP = 7, reserved: "A model refuses a transaction with OP = 7: it gives it no result" (R53, R110).
  Raised by `execReserved`. Safe: a chip returns some value the model does not have. -/
  | reservedOperation
deriving DecidableEq, Repr

/-- The machine after reset or power-up (R29, R118, R119): the tables hold their constant contents, no
result exists and the refused mark is clear. OP, A and B are the host's; they read 0 here until the host
drives them (DESIGN CHOICE, log 3). -/
def State.reset : State :=
  { tables := chipTables, op := 0, a := 0, b := 0, result := none, refused := false }

end Sys2Proof.Machine
end

