-- ==== Sys2Proof/Machine/Ops.lean ====
section
/-! DEFINITION. The operations every meaning and the step share: reading the two tables (R31),
presenting a command on the ports (R48), returning a transaction's results (R48, R52) and refusing it
(R110), and asserting reset (R118). There is no operation that takes an exception and none that returns
from one: CORE "raises no exception and has no trap mechanism" (R107, R108). -/

namespace Sys2Proof.Machine

/-- `SBOX(i, idx)` (R31) for table number `i = t + 1`: total, without side effect. -/
def Tables.readSbox (T : Tables) (t : Fin 8) (idx : Group) : Nibble := T.sbox[t][idx.toFin]

/-- `PERM(j)` (R31): a value in 1..32. -/
def Tables.readPerm (T : Tables) (j : Fin 32) : Nat := T.perm[j].val + 1

/-- The command on the input ports (R46). -/
def State.command (s : State) : Command := { op := s.op, a := s.a, b := s.b }

/-- The host drives the input ports (R26, R48). -/
def State.present (c : Command) (s : State) : State := { s with op := c.op, a := c.a, b := c.b }

/-- A transaction's results stand on Y0 and Y1; it has no other effect (R37, R48). -/
def State.withResult (y0 y1 : Port) (s : State) : State := { s with result := some ⟨y0, y1⟩ }

/-- A transaction completes with its results (R101). -/
def complete (y0 y1 : Port) (s : State) : Host.Outcome State Fault Refusal :=
  .next (s.withResult y0 y1)

/-- A transaction is refused: it has no result (R110). -/
def refuse (r : Refusal) : Host.Outcome State Fault Refusal := .refused r

/-- The mark a refused transaction leaves on the model's state, and no result (R110). -/
def State.markRefused (s : State) : State := { s with result := none, refused := true }

/-- Reset is asserted (R118, R119): the tables do not change, and no result the host may rely on
remains. The ports are the host's, and the refused mark is the model's record of the host's sequence;
both stay. DESIGN CHOICE, log 8. Reset has no duration: it is over with this action. DESIGN CHOICE,
log 15. -/
def State.assertReset (s : State) : State := { s with result := none }

end Sys2Proof.Machine
end

