-- ==== Sys2Proof/Machine/Operands.lean ====
section
/-! DEFINITION. Operand assembly, which is only the extraction of a fixed low field of A or B (R47,
R51), the fields inside a value (R32, R33), and the zero-extension of a result into its port (R52). No
value is ever sign-extended (R12, R47). -/

namespace Sys2Proof.Machine

/-- `p[n-1:0]`, the low `n` bits of a port: the field an operation reads (R51). -/
def field (n : Nat) (p : Port) : BitVec n := p.extractLsb' 0 n

/-- `zext_64(v)` (R12, R52). -/
def zext64 {n : Nat} (v : BitVec n) : Port := v.setWidth 64

/-- The table select `t = A[2:0]`, naming table number `t + 1` (R66): every value names a table. -/
def tableSelect (p : Port) : Fin 8 := (field 3 p).toFin

/-- The high half L of a block, `P[63:32]` (R32). -/
def highHalf (p : Port) : Half := p.extractLsb' 32 32

/-- The low half R of a block, `P[31:0]` (R32). -/
def lowHalf (p : Port) : Half := p.extractLsb' 0 32

/-- Block assembly `{L, R}`, L in bits 63:32 (R32, R93). -/
def joinHalves (l r : Half) : Port := l ++ r

/-- Group `k + 1` of a 48-bit value, bits `[53-6(k+1) : 48-6(k+1)]`: group 1 is the most significant
(R33, R61). -/
def group (x : Wide) (k : Fin 8) : Group := x.extractLsb' (42 - 6 * k.val) 6

/-- The truncation of an instruction's operands to the fields it reads (R51, R102), zero-extended back
into their ports. -/
def truncate : Instr → Instr
  | .expand a => .expand (zext64 (field 32 a))
  | .substitute a => .substitute (zext64 (field 48 a))
  | .permute a => .permute (zext64 (field 32 a))
  | .feistelRound a b => .feistelRound (zext64 (field 32 a)) (zext64 (field 48 b))
  | .deriveSubkeys a => .deriveSubkeys (zext64 (field 56 a))
  | .encryptBlock a b => .encryptBlock (zext64 (field 56 a)) b
  | .sboxLookup a b => .sboxLookup (zext64 (field 3 a)) (zext64 (field 6 b))
  | .reserved => .reserved

end Sys2Proof.Machine
end

