-- ==== Sys2Proof/Machine/Datapath.lean ====
section
/-! DEFINITION. Expansion, Substitution and Permutation (R55, R62, R70), and the operations that expose
them: EXPAND, SUBSTITUTE, SBOX_LOOKUP and PERMUTE. -/

namespace Sys2Proof.Machine

/-- `Expand(r)`, the formula of R55 as it stands (C1 and C4: the formula governs). -/
def expand (r : Half) : Wide :=
  let g1 : Half := ((r >>> 27) &&& 0x1F) ||| ((r &&& 0x1) <<< 5)
  let g2 : Half := (r >>> 23) &&& 0x3F
  let g3 : Half := (r >>> 19) &&& 0x3F
  let g4 : Half := (r >>> 15) &&& 0x3F
  let g5 : Half := (r >>> 11) &&& 0x3F
  let g6 : Half := (r >>> 7) &&& 0x3F
  let g7 : Half := (r >>> 3) &&& 0x3F
  let g8 : Half := ((r >>> 31) &&& 0x1) ||| ((r &&& 0x1F) <<< 1)
  (g1.setWidth 48 <<< 42) ||| (g2.setWidth 48 <<< 36) ||| (g3.setWidth 48 <<< 30) |||
    (g4.setWidth 48 <<< 24) ||| (g5.setWidth 48 <<< 18) ||| (g6.setWidth 48 <<< 12) |||
    (g7.setWidth 48 <<< 6) ||| g8.setWidth 48

/-- `O_k = SBOX(k, S_k)` of R62, for group and table number `k + 1`. -/
def lookup (T : Tables) (x : Wide) (k : Fin 8) : Nibble := T.readSbox k (group x k)

/-- `Substitute(x) = {O_1, …, O_8}` (R62). -/
def substitute (T : Tables) (x : Wide) : Half :=
  lookup T x 0 ++ lookup T x 1 ++ lookup T x 2 ++ lookup T x 3 ++
    lookup T x 4 ++ lookup T x 5 ++ lookup T x 6 ++ lookup T x 7

/-- `Permute(x)` (R70): output bit `31 - j` is input bit `32 - PERM(j)`. Bit `i` of the output is bit
`31 - j` for `j = i.rev`. -/
def permute (T : Tables) (x : Half) : Half :=
  BitVec.ofFnLE fun i : Fin 32 => x.getLsbD (32 - T.readPerm i.rev)

/-- EXPAND (R60). -/
def execExpand (a : Port) (s : State) : Host.Outcome State Fault Refusal :=
  complete (zext64 (expand (field 32 a))) 0 s

/-- SUBSTITUTE (R65). -/
def execSubstitute (a : Port) (s : State) : Host.Outcome State Fault Refusal :=
  complete (zext64 (substitute s.tables (field 48 a))) 0 s

/-- PERMUTE (R73). -/
def execPermute (a : Port) (s : State) : Host.Outcome State Fault Refusal :=
  complete (zext64 (permute s.tables (field 32 a))) 0 s

/-- SBOX_LOOKUP (R66, D6). -/
def execSboxLookup (a b : Port) (s : State) : Host.Outcome State Fault Refusal :=
  complete (zext64 (s.tables.readSbox (tableSelect a) (field 6 b))) 0 s

end Sys2Proof.Machine
end

