-- ==== Sys2Proof/Machine/RoundKeySchedule.lean ====
section
/-! DEFINITION. The round function (R79) and the key schedule (R85), and the operations that expose
them: FEISTEL_ROUND and DERIVE_SUBKEYS. -/

namespace Sys2Proof.Machine

/-- `RoundOutput(r, k)` (R79). The last XOR is the round whitening with the low 32 bits of the round's
own subkey (R77, R78, C5). -/
def roundOutput (T : Tables) (r : Half) (k : Wide) : Half :=
  permute T (substitute T (expand r ^^^ k)) ^^^ k.extractLsb' 0 32

/-- `KeySchedule(k) = (K1, K2)`, `K1 = k[47:0]` and `K2 = k[55:8]` (R85, R89). -/
def keySchedule (k : MasterKey) : Wide × Wide := (k.extractLsb' 0 48, k.extractLsb' 8 48)

/-- FEISTEL_ROUND (R81): the round's f value only. -/
def execFeistelRound (a b : Port) (s : State) : Host.Outcome State Fault Refusal :=
  complete (zext64 (roundOutput s.tables (field 32 a) (field 48 b))) 0 s

/-- DERIVE_SUBKEYS (R88): K1 on Y0 and K2 on Y1. -/
def execDeriveSubkeys (a : Port) (s : State) : Host.Outcome State Fault Refusal :=
  complete (zext64 (keySchedule (field 56 a)).1) (zext64 (keySchedule (field 56 a)).2) s

end Sys2Proof.Machine
end

