-- ==== Sys2Proof/Machine/Driver.lean ====
section
/-! DEFINITION. The two-round Feistel driver (R90 to R93) and ENCRYPT_BLOCK, which exposes it. -/

namespace Sys2Proof.Machine

/-- `Encrypt(k, p)` (R93): two rounds, no step before or after them (R92), no final swap (R91). -/
def encrypt (T : Tables) (k : MasterKey) (p : Port) : Port :=
  let l0 := highHalf p
  let r0 := lowHalf p
  let k1 := (keySchedule k).1
  let k2 := (keySchedule k).2
  let l1 := r0
  let r1 := l0 ^^^ roundOutput T r0 k1
  let l2 := r1
  let r2 := l1 ^^^ roundOutput T r1 k2
  joinHalves l2 r2

/-- ENCRYPT_BLOCK (R96, C6): the key on A, the block on B. -/
def execEncryptBlock (a b : Port) (s : State) : Host.Outcome State Fault Refusal :=
  complete (encrypt s.tables (field 56 a) b) 0 s

end Sys2Proof.Machine
end

