-- ==== Sys2Proof/Machine/Flags.lean ====
section
/-! DEFINITION. CORE has no flag and no condition code: "No operation sets, clears or reads a status
flag, carry, overflow or condition code" (R24), and no operation of its datapath can carry or overflow
(R76, R104). So there is no flag computation, and this file holds no definition. -/
end

