-- ==== Sys2Proof/Machine/Reserved.lean ====
section
/-! DEFINITION. The reserved operation code (R53). -/

namespace Sys2Proof.Machine

/-- OP = 7 "selects no operation. A model refuses a transaction with OP = 7: it gives it no result"
(R53, R110, D7). -/
def execReserved (_s : State) : Host.Outcome State Fault Refusal := refuse .reservedOperation

end Sys2Proof.Machine
end

