-- ==== Sys2Proof/Machine/Dispatch.lean ====
section
/-! DEFINITION. One arm per operation of R49. -/

namespace Sys2Proof.Machine

/-- What an instruction does (R48). -/
def exec (i : Instr) (s : State) : Host.Outcome State Fault Refusal :=
  match i with
  | .expand a => Sys2Proof.Machine.execExpand a s
  | .substitute a => Sys2Proof.Machine.execSubstitute a s
  | .permute a => Sys2Proof.Machine.execPermute a s
  | .feistelRound a b => Sys2Proof.Machine.execFeistelRound a b s
  | .deriveSubkeys a => Sys2Proof.Machine.execDeriveSubkeys a s
  | .encryptBlock a b => Sys2Proof.Machine.execEncryptBlock a b s
  | .sboxLookup a b => Sys2Proof.Machine.execSboxLookup a b s
  | .reserved => Sys2Proof.Machine.execReserved s

end Sys2Proof.Machine
end

