-- ==== Sys2Proof/Machine/Step.lean ====
section
/-! DEFINITION. One step is one transaction of the command on the ports (R37, R48): CORE fetches nothing
(R23), so the decoder reads the ports. -/

namespace Sys2Proof.Machine

/-- One transaction, as one atomic step (R37, R48, R99, R124). -/
def step (s : State) : Host.Outcome State Fault Refusal := exec (decodeCommand s.command) s

/-- `s` with the command of a row of spec/opcode_table.json presented on its ports, where the next step
reads it. -/
def State.withFetchWord (s : State) (nbits w : Nat) : State := s.present (commandOfTableWord nbits w)

end Sys2Proof.Machine
end

