-- ==== Sys2Proof/Machine/Transactions.lean ====
section
/-! DEFINITION. A host's transactions, one after another: it presents a command, CORE takes one step,
and a refusal is "kept as a mark on the model's state" (R48, R110). A host that goes on after a refused
transaction gets the results of the later ones as ever (R21, R101). -/

namespace Sys2Proof.Machine

/-- One transaction of a host: present the command, take the step, keep the mark (R48, R110). -/
def transact (c : Command) (s : State) : State :=
  match step (s.present c) with
  | .next t => t
  | .fault r => nomatch r
  | .refused _ => (s.present c).markRefused

/-- A host's sequence of transactions, in the order issued. -/
def transactAll (cs : List Command) (s : State) : State := cs.foldl (fun s c => transact c s) s

/-- The results of a host's sequence, one for each transaction, none for a refused one (R110, R111). -/
def resultsOf : List Command → State → List (Option Result)
  | [], _ => []
  | c :: cs, s => (transact c s).result :: resultsOf cs (transact c s)

/-- What one transaction returns from given tables: a function of OP, A, B and the tables alone (R21). -/
def outcomeOf (T : Tables) (c : Command) : Option Result :=
  (transact c { State.reset with tables := T }).result

end Sys2Proof.Machine
end

