-- ==== Sys2Proof/Machine/Concurrent.lean ====
section
/-! DEFINITION. A layer over the atomic step: several CORE units, and several transactions in progress
on a pipelined one (R40, R115), with a clock and CORE_LATENCY (R124). A transaction's operands are
captured at issue (R123); its outcome is the atomic model's; it is returned when the unit's latency has
passed. Reset drops what is in progress (R118). Log 9. -/

namespace Sys2Proof.Machine

/-- A transaction in progress: its captured command, and the clock cycles it still takes. -/
structure InFlight where
  command : Command
  left : Nat
deriving DecidableEq, Repr

/-- One CORE unit: the transactions in progress, oldest first, and what it has returned, oldest first
(`none` for a refused transaction). -/
structure CoreUnit where
  inFlight : List InFlight
  returned : List (Option Result)
deriving DecidableEq, Repr

/-- A unit after power-up: nothing in progress, "no pending result" (R119). -/
def CoreUnit.idle : CoreUnit := { inFlight := [], returned := [] }

/-- What can happen to a unit. -/
inductive UnitEvent where
  /-- The host issues a transaction (R48, R122). -/
  | issue (c : Command)
  /-- One clock cycle passes. -/
  | tick
  /-- Reset is asserted (R118). One event without duration: a transaction issued after it has its result,
  where the spec does not say what one issued while reset is held asserted returns. DESIGN CHOICE, log
  15. -/
  | assertReset
deriving DecidableEq, Repr

/-- The clock cycles from issue to result (R124): none for a combinational unit. -/
def cyclesOf : Latency → Nat
  | .combinational => 0
  | .cycles n => n

/-- Every transaction whose cycles have passed returns its outcome, in the order of the list. -/
def CoreUnit.returnDue (T : Tables) (u : CoreUnit) : CoreUnit :=
  { inFlight := u.inFlight.filter fun f => f.left != 0
    returned := u.returned ++ (u.inFlight.filter fun f => f.left == 0).map fun f => outcomeOf T f.command }

/-- A transaction is issued: its operands are captured (R123), and a combinational unit returns at
once. -/
def CoreUnit.issue (L : Latency) (T : Tables) (c : Command) (u : CoreUnit) : CoreUnit :=
  CoreUnit.returnDue T { u with inFlight := u.inFlight ++ [{ command := c, left := cyclesOf L }] }

/-- One clock cycle passes for every transaction in progress. -/
def CoreUnit.tick (T : Tables) (u : CoreUnit) : CoreUnit :=
  CoreUnit.returnDue T { u with inFlight := u.inFlight.map fun f => { f with left := f.left - 1 } }

/-- Reset is asserted: "a transaction in progress when reset is asserted returns no result" (R118).
Reset is over with this event (log 15). -/
def CoreUnit.assertReset (u : CoreUnit) : CoreUnit := { u with inFlight := [] }

/-- One event of a unit. -/
def CoreUnit.apply (L : Latency) (T : Tables) (e : UnitEvent) (u : CoreUnit) : CoreUnit :=
  match e with
  | .issue c => u.issue L T c
  | .tick => u.tick T
  | .assertReset => u.assertReset

/-- A schedule of events of a unit, oldest first. -/
def CoreUnit.run (L : Latency) (T : Tables) (es : List UnitEvent) (u : CoreUnit) : CoreUnit :=
  es.foldl (fun u e => u.apply L T e) u

/-- The commands a schedule issues, in order. -/
def issuedBy : List UnitEvent → List Command
  | [] => []
  | .issue c :: es => c :: issuedBy es
  | .tick :: es => issuedBy es
  | .assertReset :: es => issuedBy es

/-- Several units: they "share nothing but the constant table contents" (R115). -/
structure CoreSystem where
  tables : Tables
  units : List CoreUnit
deriving DecidableEq, Repr

/-- An event of unit `k`, at the machine's CORE_LATENCY (R115, R124). -/
def CoreSystem.apply (k : Nat) (e : UnitEvent) (sys : CoreSystem) : CoreSystem :=
  { sys with units := sys.units.modify k (CoreUnit.apply Config.coreLatency sys.tables e) }

end Sys2Proof.Machine
end

