-- ==== Sys2Proof/Machine/HostLayout.lean ====
section
/-! DEFINITION. How a host lays a port value out in its own byte memory: the open parameter
HOST_BYTE_ORDER (R34, D10). CORE has no byte-addressed interface, so no meaning and no step uses this
file. -/

namespace Sys2Proof.Machine

/-- The eight bytes of a value, the byte at position `i` being byte number `order i` of the value. -/
def layoutBytes (order : Equiv.Perm (Fin 8)) (v : Port) : Vector (BitVec 8) 8 :=
  Vector.ofFn fun i => v.extractLsb' (8 * (order i).val) 8

/-- The value eight bytes stand for. -/
def valueOfBytes (order : Equiv.Perm (Fin 8)) (bytes : Vector (BitVec 8) 8) : Port :=
  BitVec.ofFnLE fun i : Fin 64 =>
    (bytes[order.symm (Fin.ofNat 8 (i.val / 8))]).getLsbD (i.val % 8)

/-- A value as the host of this machine stores it. -/
def hostLayout (v : Port) : Vector (BitVec 8) 8 := layoutBytes Config.hostByteOrder v

/-- The value the host of this machine reads back. -/
def hostValue (bytes : Vector (BitVec 8) 8) : Port := valueOfBytes Config.hostByteOrder bytes

end Sys2Proof.Machine
end

