-- ==== Sys2Proof/Safety.lean ====
section
/-! DEFINITION. What claims are stated in: the tables the spec admits (R15 to R19), the invariant of the
state, and the host sequences that issue no reserved operation (R53, R110). -/

namespace Sys2Proof.Machine

/-- SBOX_TABLES meets R16: entry 0 of the eight tables is pinned. (R15's range holds by type.) -/
def Tables.SboxPinned (T : Tables) : Prop := ∀ t : Fin 8, T.sbox[t][0] = pinnedSbox[t]

/-- PERM_TABLE meets R18: "no repeats (a permutation of 1..32)". (Its range holds by type.) -/
def Tables.PermIsPermutation (T : Tables) : Prop := ∀ i j : Fin 32, T.perm[i] = T.perm[j] → i = j

/-- PERM_TABLE meets R19: entry 0 is 16, held as 15. -/
def Tables.PermPinned (T : Tables) : Prop := T.perm[0] = pinnedPerm

/-- The tables a chip may have (R15 to R19). A claim about CORE holds for every such table (D8, D9). -/
structure Tables.Admissible (T : Tables) : Prop where
  sboxPinned : T.SboxPinned
  permIsPermutation : T.PermIsPermutation
  permPinned : T.PermPinned

/-- The invariant of the state: the tables are ones a chip may have, and a result's Y1 is at most a
48-bit subkey (R52). -/
structure State.Inv (s : State) : Prop where
  tablesAdmissible : s.tables.Admissible
  y1Narrow : ∀ r, s.result = some r → r.y1.toNat < 2 ^ 48

/-- The transaction of `c` from `s` completes with the results `y0` and `y1`, and changes nothing else
(R48). -/
def Returns (s : State) (c : Command) (y0 y1 : Port) : Prop :=
  step (s.present c) = .next { s.present c with result := some ⟨y0, y1⟩ }

/-- A command a host may issue (R53). -/
def Command.accepted (c : Command) : Bool := c.op != 7

/-- A host sequence is safe when the refused mark is clear after it (R110). -/
def SafeSequence (cs : List Command) (s : State) : Prop := (transactAll cs s).refused = false

end Sys2Proof.Machine
end

