-- ==== Sys2Proof/Certificates/Slice0/Obligations.lean ====
section
/-! DEFINITION. The statements about the model, each formalising rules of spec/. A statement about CORE
holds for every content of the tables, or for every content the spec admits (`Tables.Admissible`), as
D8 and D9 ask. -/

open Sys2Proof Sys2Proof.Machine

/-! ### Commands and their encoding -/

/-- R50, with the codes of R49: each value of OP selects its operation, whatever the operands. -/
def Obligations.EachOpValueSelectsItsOperation : Prop :=
  ∀ a b : Port,
    decodeCommand ⟨0b000, a, b⟩ = .expand a ∧ decodeCommand ⟨0b001, a, b⟩ = .substitute a ∧
    decodeCommand ⟨0b010, a, b⟩ = .permute a ∧ decodeCommand ⟨0b011, a, b⟩ = .feistelRound a b ∧
    decodeCommand ⟨0b100, a, b⟩ = .deriveSubkeys a ∧
    decodeCommand ⟨0b101, a, b⟩ = .encryptBlock a b ∧
    decodeCommand ⟨0b110, a, b⟩ = .sboxLookup a b ∧ decodeCommand ⟨0b111, a, b⟩ = .reserved

/-- The rows of spec/opcode_table.json as table words (the layout of the word is the model's, log 6). -/
def Obligations.TableRowsDecodeToTheirInstructions : Prop :=
  decodeTableWord 8 0x0 = some (.expand 0) ∧ decodeTableWord 8 0x1 = some (.substitute 0) ∧
  decodeTableWord 8 0x2 = some (.permute 0) ∧ decodeTableWord 8 0x3 = some (.feistelRound 0 0) ∧
  decodeTableWord 8 0x4 = some (.deriveSubkeys 0) ∧ decodeTableWord 8 0x5 = some (.encryptBlock 0 0) ∧
  decodeTableWord 8 0x6 = some (.sboxLookup 0 0) ∧ decodeTableWord 8 0x7 = some .reserved

/-- Decoding the packed command (R46) of any instruction gives it back, every operand at every value. -/
def Obligations.DecodeOfEncodeIsTheInstruction : Prop :=
  ∀ i : Instr, decode (encode i).toNat = .ok i

/-- The other direction: a number decodes exactly when it is a 131-bit packing (R46), and the decoded
instruction carries the packing's OP, its A unless OP is reserved, and its B where the operation has a
second operand, 0 where it has none (R54). That a wider number is rejected is the model's choice, log 6. -/
def Obligations.EncodeOfDecodeIsThePackedCommand : Prop :=
  (∀ n : Nat, 2 ^ 131 ≤ n → decode n = .error .widerThanACommand) ∧
  ∀ w : BitVec 131, ∃ i, decode w.toNat = .ok i ∧
    (encode i).extractLsb' 128 3 = w.extractLsb' 128 3 ∧
    ((w.extractLsb' 128 3).toNat < 7 → (encode i).extractLsb' 64 64 = w.extractLsb' 64 64) ∧
    ((w.extractLsb' 128 3).toNat ∈ [3, 5, 6] → (encode i).extractLsb' 0 64 = w.extractLsb' 0 64) ∧
    ((w.extractLsb' 128 3).toNat ∈ [0, 1, 2, 4] → (encode i).extractLsb' 0 64 = 0)

/-- A step runs the decoded instruction (R48): the command on the ports, a packed command presented on
them, and a row's word placed by `withFetchWord`. Nothing is fetched (R23), so nothing is added around
`exec`. -/
def Obligations.StepRunsTheDecodedInstruction : Prop :=
  (∀ s : State, step s = exec (decodeCommand ⟨s.op, s.a, s.b⟩) s) ∧
  (∀ (s : State) (n : Nat) (i : Instr), decode n = .ok i →
    step (s.present (Command.unpack (BitVec.ofNat 131 n))) =
      exec i (s.present (Command.unpack (BitVec.ofNat 131 n)))) ∧
  (∀ (s : State) (nbits w : Nat) (i : Instr), decodeTableWord nbits w = some i →
    step (s.withFetchWord nbits w) = exec i (s.withFetchWord nbits w))

/-! ### Every operation completes with its results -/

/-- R52 (and R51 for the fields): for every state and operands each of the seven operations answers the
next state in which Y0 and Y1 hold its results and nothing else differs. -/
def Obligations.EveryOperationReturnsItsResults : Prop :=
  ∀ (s : State) (a b : Port),
    exec (.expand a) s =
      .next { s with result := some ⟨(expand (a.extractLsb' 0 32)).setWidth 64, 0⟩ } ∧
    exec (.substitute a) s =
      .next { s with result := some ⟨(substitute s.tables (a.extractLsb' 0 48)).setWidth 64, 0⟩ } ∧
    exec (.permute a) s =
      .next { s with result := some ⟨(permute s.tables (a.extractLsb' 0 32)).setWidth 64, 0⟩ } ∧
    exec (.feistelRound a b) s =
      .next { s with
        result := some ⟨(roundOutput s.tables (a.extractLsb' 0 32) (b.extractLsb' 0 48)).setWidth 64, 0⟩ } ∧
    exec (.deriveSubkeys a) s =
      .next { s with
        result := some ⟨(a.extractLsb' 0 48).setWidth 64, (a.extractLsb' 8 48).setWidth 64⟩ } ∧
    exec (.encryptBlock a b) s =
      .next { s with result := some ⟨encrypt s.tables (a.extractLsb' 0 56) b, 0⟩ } ∧
    exec (.sboxLookup a b) s =
      .next { s with result := some ⟨(s.tables.sbox[(a.extractLsb' 0 3).toFin][
        (b.extractLsb' 0 6).toFin]).setWidth 64, 0⟩ }

/-- R53: the reserved operation answers no next state; it is refused, with every operand. -/
def Obligations.ReservedOperationIsRefused : Prop :=
  ∀ (s : State) (a b : Port),
    exec .reserved s = .refused .reservedOperation ∧
    step (s.present ⟨0b111, a, b⟩) = .refused .reservedOperation

/-- R111: the outcomes of a transaction are exactly a result for OP in 0..6 and a refusal for OP = 7. -/
def Obligations.OutcomesAreAResultOrARefusal : Prop :=
  ∀ s : State,
    (s.op.toNat ≤ 6 → ∃ y0 y1, step s = .next { s with result := some ⟨y0, y1⟩ }) ∧
    (s.op.toNat = 7 → step s = .refused .reservedOperation)

/-! ### Expansion -/

/-- R56: the Expansion as a bit map. -/
def Obligations.ExpandIsTheBitMap : Prop :=
  ∀ r : Half, expand r = BitVec.cast rfl
    (r.extractLsb' 0 1 ++ r.extractLsb' 27 5 ++ r.extractLsb' 23 6 ++ r.extractLsb' 19 6 ++
      r.extractLsb' 15 6 ++ r.extractLsb' 11 6 ++ r.extractLsb' 7 6 ++ r.extractLsb' 3 6 ++
      r.extractLsb' 0 5 ++ r.extractLsb' 31 1)

/-- The pairs of R58: each bit of r that appears twice, with the two bits of E it stands at. -/
def expandPairs : List (Nat × Nat × Nat) :=
  [(31, 46, 0), (0, 47, 1), (28, 43, 41), (27, 42, 40), (24, 37, 35), (23, 36, 34), (20, 31, 29),
    (19, 30, 28), (16, 25, 23), (15, 24, 22), (12, 19, 17), (11, 18, 16), (8, 13, 11), (7, 12, 10),
    (4, 7, 5), (3, 6, 4)]

/-- R58: the sixteen listed bits of r appear at their two places and nowhere else, every other bit
appears exactly once, and Expand is injective. A place of E where bit i of r appears is one set by the
value with bit i alone set. -/
def Obligations.ExpandDuplicatesSixteenBits : Prop :=
  (∀ r : Half, ∀ t ∈ expandPairs,
    (expand r).getLsbD t.2.1 = r.getLsbD t.1 ∧ (expand r).getLsbD t.2.2 = r.getLsbD t.1) ∧
  (∀ i : Fin 32, (expand (BitVec.twoPow 32 i.val)).cpop = if i.val ∈ expandPairs.map (·.1) then 2 else 1) ∧
  Function.Injective expand

/-- R57: the wraparound, r[0] at bit 5 of G1 and r[31] at bit 0 of G8. -/
def Obligations.ExpandWrapsTheOuterBits : Prop :=
  ∀ r : Half, (expand r).getLsbD 47 = r.getLsbD 0 ∧ (expand r).getLsbD 0 = r.getLsbD 31

/-- R59: Expand is linear over XOR and fixes the extremes. -/
def Obligations.ExpandIsLinear : Prop :=
  (∀ r q : Half, expand (r ^^^ q) = expand r ^^^ expand q) ∧ expand 0 = 0 ∧
  expand 0xFFFFFFFF = 0xFFFFFFFFFFFF

/-- R60: EXPAND, its encoding and operands, its result, its corner cases and its example. -/
def Obligations.ExpandTransaction : Prop :=
  ∀ (s : State) (a b : Port),
    exec (.expand a) s = .next { s with result := some ⟨(expand (a.setWidth 32)).setWidth 64, 0⟩ } ∧
    Returns s ⟨0b000, a, b⟩ ((expand (a.setWidth 32)).setWidth 64) 0 ∧
    Returns s ⟨0b000, 0, b⟩ 0 0 ∧
    Returns s ⟨0b000, 0xFFFFFFFF, b⟩ 0xFFFFFFFFFFFF 0 ∧
    (∀ (hi : Half) (r : Half), Returns s ⟨0b000, hi ++ r, b⟩ ((expand r).setWidth 64) 0) ∧
    Returns s ⟨0b000, 0x100000001, b⟩ 0x0000800000000002 0 ∧
    Returns s ⟨0b000, 0x00000001, b⟩ 0x0000800000000002 0 ∧
    ((expand (a.setWidth 32)).setWidth 64).extractLsb' 48 16 = 0#16

/-! ### Substitution -/

/-- R61 and R62: nibble k of the Substitution is table k at group k, for k in 1..8 (here `k + 1`). -/
def Obligations.SubstituteReadsTableKAtGroupK : Prop :=
  ∀ (T : Tables) (x : Wide) (k : Fin 8),
    (substitute T x).extractLsb' (28 - 4 * k.val) 4 =
      T.sbox[k][(x.extractLsb' (42 - 6 * k.val) 6).toFin]

/-- R63: a nibble of the Substitution depends on its own group and its own table alone. -/
def Obligations.SubstituteLookupsAreIndependent : Prop :=
  ∀ (T T' : Tables) (x x' : Wide) (k : Fin 8), T.sbox[k] = T'.sbox[k] →
    x.extractLsb' (42 - 6 * k.val) 6 = x'.extractLsb' (42 - 6 * k.val) 6 →
    (substitute T x).extractLsb' (28 - 4 * k.val) 4 = (substitute T' x').extractLsb' (28 - 4 * k.val) 4

/-- R65: SUBSTITUTE, its encoding and operands, its result, its corner cases and its example, for every
admissible content of the tables. -/
def Obligations.SubstituteTransaction : Prop :=
  ∀ (s : State) (a b : Port), s.tables.Admissible →
    exec (.substitute a) s =
      .next { s with result := some ⟨(substitute s.tables (a.setWidth 48)).setWidth 64, 0⟩ } ∧
    Returns s ⟨0b001, a, b⟩ ((substitute s.tables (a.setWidth 48)).setWidth 64) 0 ∧
    Returns s ⟨0b001, 0, b⟩ 0x3DEA72C4 0 ∧
    (∀ (hi : BitVec 16) (x : Wide),
      Returns s ⟨0b001, hi ++ x, b⟩ ((substitute s.tables x).setWidth 64) 0) ∧
    Returns s ⟨0b001, 0xFFFF000000000000, b⟩ 0x3DEA72C4 0 ∧
    ((substitute s.tables (a.setWidth 48)).setWidth 64).extractLsb' 32 32 = 0#32

/-- R66: SBOX_LOOKUP, its encoding and operands, its result, its corner cases and its example, for every
admissible content of the tables. -/
def Obligations.SboxLookupTransaction : Prop :=
  ∀ (s : State) (a b : Port), s.tables.Admissible →
    exec (.sboxLookup a b) s = .next { s with
        result := some ⟨(s.tables.sbox[(a.setWidth 3).toFin][(b.setWidth 6).toFin]).setWidth 64, 0⟩ } ∧
    Returns s ⟨0b110, a, b⟩
      ((s.tables.sbox[(a.setWidth 3).toFin][(b.setWidth 6).toFin]).setWidth 64) 0 ∧
    (∀ (hiA : BitVec 61) (hiB : BitVec 58) (t : BitVec 3) (idx : Group),
      Returns s ⟨0b110, hiA ++ t, hiB ++ idx⟩ ((s.tables.sbox[t.toFin][idx.toFin]).setWidth 64) 0) ∧
    Returns s ⟨0b110, 8, 0⟩ 0x3 0 ∧ Returns s ⟨0b110, 0, 0x40⟩ 0x3 0 ∧
    Returns s ⟨0b110, 0, 0⟩ 0x3 0 ∧
    ((s.tables.sbox[(a.setWidth 3).toFin][(b.setWidth 6).toFin]).setWidth 64).extractLsb' 4 60 = 0#60

/-- R67: nibble k of SUBSTITUTE is what SBOX_LOOKUP returns for table k at group k. -/
def Obligations.SubstituteAgreesWithSboxLookup : Prop :=
  ∀ (s : State) (x : Wide) (k : Fin 8), ∃ y z : Port,
    exec (.substitute (x.setWidth 64)) s = .next { s with result := some ⟨y, 0⟩ } ∧
    exec (.sboxLookup (BitVec.ofNat 64 k.val) ((x.extractLsb' (42 - 6 * k.val) 6).setWidth 64)) s =
      .next { s with result := some ⟨z, 0⟩ } ∧
    (y.extractLsb' (28 - 4 * k.val) 4).setWidth 64 = z

/-! ### Permutation -/

/-- R70: output bit 31 - j is input bit 32 - PERM(j), PERM(j) being the held entry and 1. -/
def Obligations.PermuteMovesEachBit : Prop :=
  ∀ (T : Tables) (x : Half) (j : Fin 32),
    (permute T x).getLsbD (31 - j.val) = x.getLsbD (32 - (T.perm[j].val + 1))

/-- R68, in the source's own two forms: output bit j counted from the most significant end is input bit
32 - p counted from the least significant end; and the loop
`output |= ((input >> (32 - PermutationTable[i])) & 1) << (31 - i)`. -/
def Obligations.PermuteIsTheSourcesLoop : Prop :=
  ∀ (T : Tables) (x : Half),
    (∀ j : Fin 32, (permute T x).getMsbD j.val = x.getLsbD (32 - T.readPerm j)) ∧
    permute T x = (List.finRange 32).foldl
      (fun out i => out ||| (((x >>> (32 - T.readPerm i)) &&& 1) <<< (31 - i.val))) 0

/-- R71: for every PERM_TABLE that meets R18, Permute is a bijection, and the 32 values with one bit set
go to 32 distinct values with one bit set. -/
def Obligations.PermuteIsABijection : Prop :=
  ∀ T : Tables, T.PermIsPermutation →
    Function.Bijective (permute T) ∧
    (∀ i : Fin 32, (permute T (BitVec.twoPow 32 i.val)).cpop = 1) ∧
    (∀ i j : Fin 32, permute T (BitVec.twoPow 32 i.val) = permute T (BitVec.twoPow 32 j.val) → i = j)

/-- R72: the pinned mapping, output bit 31 from input bit 16. -/
def Obligations.PermutePinnedBit : Prop :=
  ∀ T : Tables, T.PermIsPermutation → T.PermPinned →
    permute T 0x00010000 = 0x80000000 ∧ ∀ x : Half, (permute T x).getLsbD 31 = x.getLsbD 16

/-- R74: Permute is linear over XOR, fixes the extremes and keeps the number of set bits. -/
def Obligations.PermuteIsLinearAndKeepsWeight : Prop :=
  ∀ T : Tables, T.PermIsPermutation →
    (∀ x y : Half, permute T (x ^^^ y) = permute T x ^^^ permute T y) ∧ permute T 0 = 0 ∧
    permute T 0xFFFFFFFF = 0xFFFFFFFF ∧ ∀ x : Half, (permute T x).cpop = x.cpop

/-- R73: PERMUTE, its encoding and operands, its result, its corner cases and its example, for every
admissible content of the tables. -/
def Obligations.PermuteTransaction : Prop :=
  ∀ (s : State) (a b : Port), s.tables.Admissible →
    exec (.permute a) s =
      .next { s with result := some ⟨(permute s.tables (a.setWidth 32)).setWidth 64, 0⟩ } ∧
    Returns s ⟨0b010, a, b⟩ ((permute s.tables (a.setWidth 32)).setWidth 64) 0 ∧
    Returns s ⟨0b010, 0, b⟩ 0 0 ∧
    Returns s ⟨0b010, 0xFFFFFFFF, b⟩ 0xFFFFFFFF 0 ∧
    (∀ (hi : Half) (x : Half), Returns s ⟨0b010, hi ++ x, b⟩ ((permute s.tables x).setWidth 64) 0) ∧
    Returns s ⟨0b010, 0x100010000, b⟩ 0x80000000 0 ∧
    Returns s ⟨0b010, 0x00010000, b⟩ 0x80000000 0 ∧
    ((permute s.tables (a.setWidth 32)).setWidth 64).extractLsb' 32 32 = 0#32

/-! ### Round function and key schedule -/

/-- R75 and R76: the round function, the second XOR with the low 32 bits of the subkey. -/
def Obligations.RoundOutputIsTheSourcesFormula : Prop :=
  ∀ (T : Tables) (r : Half) (k : Wide),
    (roundOutput T r k).setWidth 48 =
      (permute T (substitute T (expand r ^^^ k))).setWidth 48 ^^^ (k &&& 0xFFFFFFFF)

/-- R80: with k = Expand(r) the round output depends on the tables only through c = Permute(0x3DEA72C4). -/
def Obligations.RoundOutputAtItsOwnExpansion : Prop :=
  ∀ (T : Tables), T.Admissible →
    (∀ r : Half, substitute T (expand r ^^^ expand r) = 0x3DEA72C4 ∧
      roundOutput T r (expand r) = permute T 0x3DEA72C4 ^^^ (expand r).extractLsb' 0 32) ∧
    (∀ (r : Half) (k : Wide), expand r ^^^ k = 0 →
      roundOutput T r k = permute T 0x3DEA72C4 ^^^ k.extractLsb' 0 32) ∧
    roundOutput T 0 0 = permute T 0x3DEA72C4 ∧
    roundOutput T 0xFFFFFFFF 0xFFFFFFFFFFFF = permute T 0x3DEA72C4 ^^^ 0xFFFFFFFF

/-- R81: FEISTEL_ROUND, its encoding and operands, its result, its corner cases and its example, for
every admissible content of the tables. -/
def Obligations.FeistelRoundTransaction : Prop :=
  ∀ (s : State) (a b : Port), s.tables.Admissible →
    exec (.feistelRound a b) s = .next { s with
        result := some ⟨(permute s.tables (substitute s.tables (expand (a.setWidth 32) ^^^ b.setWidth 48)) ^^^
        b.setWidth 32).setWidth 64, 0⟩ } ∧
    Returns s ⟨0b011, a, b⟩ ((roundOutput s.tables (a.setWidth 32) (b.setWidth 48)).setWidth 64) 0 ∧
    (∀ r : Half, Returns s ⟨0b011, r.setWidth 64, (expand r).setWidth 64⟩
      ((permute s.tables 0x3DEA72C4 ^^^ (expand r).setWidth 32).setWidth 64) 0) ∧
    (∀ (hiA : Half) (hiB : BitVec 16) (r : Half) (k : Wide),
      Returns s ⟨0b011, hiA ++ r, hiB ++ k⟩ ((roundOutput s.tables r k).setWidth 64) 0) ∧
    (∀ (r r' : Half) (k k' : Wide), expand r ^^^ k = expand r' ^^^ k' →
      k.setWidth 32 = k'.setWidth 32 → roundOutput s.tables r k = roundOutput s.tables r' k') ∧
    Returns s ⟨0b011, 0, 0⟩ ((permute s.tables 0x3DEA72C4).setWidth 64) 0 ∧
    ((roundOutput s.tables (a.setWidth 32) (b.setWidth 48)).setWidth 64).extractLsb' 32 32 = 0#32

/-- R83, R84 and R85: the key schedule is the source's mask and shift. -/
def Obligations.KeyScheduleIsMaskAndShift : Prop :=
  ∀ k : MasterKey,
    (keySchedule k).1.setWidth 56 = k &&& 0xFFFFFFFFFFFF ∧
    (keySchedule k).2.setWidth 56 = (k >>> 8) &&& 0xFFFFFFFFFFFF ∧
    keySchedule k = (k.extractLsb' 0 48, k.extractLsb' 8 48)

/-- R86: the subkeys share 40 bits, and the 8 outer bits of each side reach one subkey only. -/
def Obligations.SubkeysShareFortyBits : Prop :=
  ∀ k k' : MasterKey,
    (keySchedule k).1.extractLsb' 8 40 = (keySchedule k).2.extractLsb' 0 40 ∧
    (keySchedule k).2.extractLsb' 0 40 = k.extractLsb' 8 40 ∧
    (keySchedule k).1.extractLsb' 0 8 = k.extractLsb' 0 8 ∧
    (keySchedule k).2.extractLsb' 40 8 = k.extractLsb' 48 8 ∧
    (k.extractLsb' 8 48 = k'.extractLsb' 8 48 → (keySchedule k).2 = (keySchedule k').2) ∧
    (k.extractLsb' 0 48 = k'.extractLsb' 0 48 → (keySchedule k).1 = (keySchedule k').1)

/-- R88: DERIVE_SUBKEYS, its encoding and operands, its results, its corner cases and its example. -/
def Obligations.DeriveSubkeysTransaction : Prop :=
  ∀ (s : State) (a b : Port),
    exec (.deriveSubkeys a) s = .next { s with
        result := some ⟨a &&& 0xFFFFFFFFFFFF, (a >>> 8) &&& 0xFFFFFFFFFFFF⟩ } ∧
    Returns s ⟨0b100, a, b⟩ ((keySchedule (a.setWidth 56)).1.setWidth 64)
      ((keySchedule (a.setWidth 56)).2.setWidth 64) ∧
    Returns s ⟨0b100, a, b⟩ ((a.extractLsb' 0 48).setWidth 64) ((a.extractLsb' 8 48).setWidth 64) ∧
    Returns s ⟨0b100, 0, b⟩ 0 0 ∧
    Returns s ⟨0b100, 0xFFFFFFFFFFFFFFFF, b⟩ 0xFFFFFFFFFFFF 0xFFFFFFFFFFFF ∧
    Returns s ⟨0b100, 0xFF00000000000000, b⟩ 0 0 ∧
    Returns s ⟨0b100, 0x0080000000000000, b⟩ 0 0x800000000000 ∧
    Returns s ⟨0b100, 0xFF, b⟩ 0xFF 0 ∧
    Returns s ⟨0b100, 0x0033333333333333, b⟩ 0x0000333333333333 0x0000333333333333 ∧
    ((a.extractLsb' 0 48).setWidth 64).extractLsb' 48 16 = 0#16 ∧
    ((a.extractLsb' 8 48).setWidth 64).extractLsb' 48 16 = 0#16

/-! ### The driver -/

/-- R90 and R91: the two rounds and the assembly without a final swap, as the source writes them; R1, the
second round's input half, is the ciphertext's high half. -/
def Obligations.EncryptIsTheSourcesTwoRounds : Prop :=
  ∀ (T : Tables) (k : MasterKey) (p : Port) (l0 r0 l1 r1 l2 r2 : Half) (k1 k2 : Wide),
    l0 = (p >>> 32).setWidth 32 → r0 = p.setWidth 32 → (k1, k2) = keySchedule k →
    l1 = r0 → r1 = l0 ^^^ roundOutput T r0 k1 → l2 = r1 → r2 = l1 ^^^ roundOutput T r1 k2 →
    encrypt T k p = (l2.setWidth 64 <<< 32) ||| r2.setWidth 64 ∧
    (encrypt T k p).extractLsb' 32 32 = r1 ∧ (encrypt T k p).extractLsb' 0 32 = r2

/-- R95: the closed form. -/
def Obligations.EncryptClosedForm : Prop :=
  ∀ (s : State) (a b : Port),
    let f := roundOutput s.tables
    let high := b.extractLsb' 32 32 ^^^ f (b.extractLsb' 0 32) (a.extractLsb' 0 48)
    exec (.encryptBlock a b) s = .next { s with
        result := some ⟨high ++ (b.extractLsb' 0 32 ^^^ f high (a.extractLsb' 8 48)), 0⟩ }

/-- R96: ENCRYPT_BLOCK, its encoding and operands, its result and its corner cases ("every bit of B is
used": two different blocks never encrypt alike), for every admissible content of the tables. The value
of the regression example is in no source (N3) and is not stated. -/
def Obligations.EncryptBlockTransaction : Prop :=
  ∀ (s : State) (a b : Port), s.tables.Admissible →
    exec (.encryptBlock a b) s =
      .next { s with result := some ⟨encrypt s.tables (a.setWidth 56) b, 0⟩ } ∧
    Returns s ⟨0b101, a, b⟩ (encrypt s.tables (a.setWidth 56) b) 0 ∧
    (∀ (hi : BitVec 8) (k : MasterKey), Returns s ⟨0b101, hi ++ k, b⟩ (encrypt s.tables k b) 0) ∧
    (∀ b' : Port, b ≠ b' →
      encrypt s.tables (a.setWidth 56) b ≠ encrypt s.tables (a.setWidth 56) b') ∧
    Returns s ⟨0b101, 0, permute s.tables 0x3DEA72C4 ++ (0 : Half)⟩
      ((permute s.tables 0x3DEA72C4).setWidth 64) 0

/-- R100: ENCRYPT_BLOCK agrees with its parts: what a host obtains with DERIVE_SUBKEYS, two FEISTEL_ROUND
transactions and its own XORs is what ENCRYPT_BLOCK returns. -/
def Obligations.EncryptBlockAgreesWithItsParts : Prop :=
  ∀ (s : State) (k : MasterKey) (p : Port), ∃ k1 k2 f1 f2 : Port,
    let r1 : Half := p.extractLsb' 32 32 ^^^ f1.setWidth 32
    Returns s ⟨0b100, k.setWidth 64, 0⟩ k1 k2 ∧
    Returns s ⟨0b011, (p.extractLsb' 0 32).setWidth 64, k1⟩ f1 0 ∧
    Returns s ⟨0b011, r1.setWidth 64, k2⟩ f2 0 ∧
    Returns s ⟨0b101, k.setWidth 64, p⟩ (r1 ++ (p.extractLsb' 0 32 ^^^ f2.setWidth 32)) 0

/-- Encryption undone by a host that holds the tables: with the ciphertext's halves and the two round
outputs the plaintext is recovered, so for a fixed key Encrypt is a bijection of blocks (derived from R93;
CORE itself has no decryption operation, R97). -/
def Obligations.EncryptIsABijectionForEachKey : Prop :=
  ∀ (T : Tables) (k : MasterKey), Function.Bijective (encrypt T k)

/-- R97: encrypting twice with the same key does not generally recover the block: with some admissible
tables it does not. (Whether it does for a given key and block of the chip depends on the open tables, I8,
and is not stated.) -/
def Obligations.EncryptTwiceDoesNotGenerallyRecover : Prop :=
  ∃ T : Tables, T.Admissible ∧ ∃ (k : MasterKey) (p : Port), encrypt T k (encrypt T k p) ≠ p

/-! ### Widths, ignored bits, tables -/

/-- R51: bits of A and B outside the fields an operation reads change no result. -/
def Obligations.IgnoredOperandBitsChangeNothing : Prop :=
  ∀ (s : State) (a a' b b' : Port),
    (a.setWidth 32 = a'.setWidth 32 →
      (transact ⟨0b000, a, b⟩ s).result = (transact ⟨0b000, a', b'⟩ s).result) ∧
    (a.setWidth 48 = a'.setWidth 48 →
      (transact ⟨0b001, a, b⟩ s).result = (transact ⟨0b001, a', b'⟩ s).result) ∧
    (a.setWidth 32 = a'.setWidth 32 →
      (transact ⟨0b010, a, b⟩ s).result = (transact ⟨0b010, a', b'⟩ s).result) ∧
    (a.setWidth 32 = a'.setWidth 32 → b.setWidth 48 = b'.setWidth 48 →
      (transact ⟨0b011, a, b⟩ s).result = (transact ⟨0b011, a', b'⟩ s).result) ∧
    (a.setWidth 56 = a'.setWidth 56 →
      (transact ⟨0b100, a, b⟩ s).result = (transact ⟨0b100, a', b'⟩ s).result) ∧
    (a.setWidth 56 = a'.setWidth 56 →
      (transact ⟨0b101, a, b⟩ s).result = (transact ⟨0b101, a', b⟩ s).result) ∧
    (a.setWidth 3 = a'.setWidth 3 → b.setWidth 6 = b'.setWidth 6 →
      (transact ⟨0b110, a, b⟩ s).result = (transact ⟨0b110, a', b'⟩ s).result)

/-- Truncating an instruction's operands to the fields R51 lists gives a pre-validated instruction with
the same effect, so no instruction is outside the meanings (R102). `preValidated` is the model's
predicate, log 7. -/
def Obligations.TruncationChangesNoEffect : Prop :=
  ∀ (i : Instr) (s : State), exec (truncate i) s = exec i s ∧ (truncate i).preValidated = true

/-- The widths of R52: whatever a step returns, Y1 is zero but for DERIVE_SUBKEYS, and Y0 and Y1 fit the
width R52 gives the operation. -/
def Obligations.ResultsFitTheirWidths : Prop :=
  ∀ (s t : State) (r : Result), step s = .next t → t.result = some r →
    (s.op ≠ 4 → r.y1 = 0) ∧ r.y1.toNat < 2 ^ 48 ∧
    (s.op ≠ 5 → r.y0.toNat < 2 ^ 48) ∧
    (s.op = 1 ∨ s.op = 2 ∨ s.op = 3 → r.y0.toNat < 2 ^ 32) ∧ (s.op = 6 → r.y0.toNat < 2 ^ 4)

/-- R31: the two table reads, PERM(j) lying in 1..32. -/
def Obligations.TableReadsAreTheEntries : Prop :=
  ∀ (T : Tables) (t : Fin 8) (idx : Group) (j : Fin 32),
    T.readSbox t idx = T.sbox[t][idx.toFin] ∧ T.readPerm j = T.perm[j].val + 1 ∧
    1 ≤ T.readPerm j ∧ T.readPerm j ≤ 32

/-- R20: no step, no host transaction or sequence, and no reset writes a table. -/
def Obligations.NothingWritesTheTables : Prop :=
  (∀ s t : State, step s = .next t → t.tables = s.tables) ∧
  (∀ (cs : List Command) (s : State), (transactAll cs s).tables = s.tables) ∧
  (∀ s : State, s.assertReset.tables = s.tables)

/-- R32: a block's halves, reassembled, are the block. -/
def Obligations.BlockHalvesReassemble : Prop :=
  ∀ p : Port, ((highHalf p).setWidth 64 <<< 32) ||| (lowHalf p).setWidth 64 = p ∧
    joinHalves (highHalf p) (lowHalf p) = p ∧ highHalf p = p.extractLsb' 32 32 ∧
    lowHalf p = p.extractLsb' 0 32

/-- R33: the eight groups of a 48-bit value, the first the most significant, group k being bits
[53-6k : 48-6k], and the nibbles of the Substitution in the same order, nibble k being bits
[35-4k : 32-4k] (k in 1..8, here `k + 1`). -/
def Obligations.GroupsAndNibblesStandInOrder : Prop :=
  ∀ x : Wide,
    (∀ k : Fin 8, group x k = x.extractLsb' (48 - 6 * (k.val + 1)) 6) ∧
    (∀ (T : Tables) (k : Fin 8),
      (substitute T x).extractLsb' (32 - 4 * (k.val + 1)) 4 = lookup T x k) ∧
    group x 0 ++ group x 1 ++ group x 2 ++ group x 3 ++ group x 4 ++ group x 5 ++
    group x 6 ++ group x 7 = x

/-! ### Frames, absence of state, order -/

/-- The frame of every operation: it writes Y0 and Y1 and nothing else. The tables, the input ports and
the refused mark are as before; there is no register, flag or memory to change (R22 to R25, R30). -/
def Obligations.OperationsWriteOnlyTheirResults : Prop :=
  ∀ (i : Instr) (s t : State), exec i s = .next t →
    t.tables = s.tables ∧ t.op = s.op ∧ t.a = s.a ∧ t.b = s.b ∧ t.refused = s.refused ∧
    ∃ r, t.result = some r

/-- R21: after any history of transactions, and from any two states with the same tables, a command has
the same results. -/
def Obligations.ResultsDependOnCommandAndTablesOnly : Prop :=
  ∀ (s s' : State) (history history' : List Command) (c : Command), s.tables = s'.tables →
    (transact c (transactAll history s)).result = (transact c (transactAll history' s')).result

/-- R37: a transaction is idempotent: repeated, it returns equal results and changes nothing. -/
def Obligations.RepeatingATransactionChangesNothing : Prop :=
  (∀ s t : State, step s = .next t → step t = .next t) ∧
  ∀ (c : Command) (s : State), transact c (transact c s) = transact c s

/-- R40: transactions may be taken one at a time in any order: each order gives every transaction the
same results. -/
def Obligations.OrderOfTransactionsDoesNotMatter : Prop :=
  ∀ (s : State) (cs cs' : List Command), cs.Perm cs' →
    (cs.zip (resultsOf cs s)).Perm (cs'.zip (resultsOf cs' s))

/-- R110: a transaction with OP = 7 leaves no result and sets the refused mark; the mark stays whatever
the host issues after it, and no claim "every transaction returns a result" holds of such a sequence.
That a host goes on after a refusal, and that the refusal clears the result, are the model's choice, log 5. -/
def Obligations.RefusedMarkIsKept : Prop :=
  (∀ (s : State) (a b : Port),
    step (s.present ⟨7, a, b⟩) = .refused .reservedOperation ∧
    (transact ⟨7, a, b⟩ s).result = none ∧ (transact ⟨7, a, b⟩ s).refused = true) ∧
  (∀ (s : State) (cs : List Command), s.refused = true → (transactAll cs s).refused = true) ∧
  (∀ (s : State) (cs : List Command), (∃ c ∈ cs, c.op = 7) →
    (transactAll cs s).refused = true ∧ none ∈ resultsOf cs s)

/-- R101 for host sequences: from a state with the mark clear, the mark stays clear exactly when every
command's OP is in 0..6, and then every transaction has its results. -/
def Obligations.AcceptedSequencesAlwaysReturn : Prop :=
  ∀ (s : State) (cs : List Command), s.refused = false →
    (SafeSequence cs s ↔ ∀ c ∈ cs, c.op.toNat ≤ 6) ∧
    ((∀ c ∈ cs, c.op.toNat ≤ 6) → ∀ r ∈ resultsOf cs s, ∃ y0 y1, r = some ⟨y0, y1⟩)

/-! ### Reset and the invariant -/

/-- The state after reset meets the invariant: its tables are admissible (R16, R18, R19). -/
def Obligations.ResetStateIsInvariant : Prop := State.reset.Inv

/-- Every step, every host transaction and an asserted reset keep the invariant: the tables stay
admissible and Y1 stays within 48 bits. -/
def Obligations.EveryStepKeepsTheInvariant : Prop :=
  (∀ s t : State, s.Inv → step s = .next t → t.Inv) ∧
  (∀ (s : State) (c : Command), s.Inv → (transact c s).Inv) ∧
  (∀ s : State, s.Inv → s.assertReset.Inv)

/-- R29: the reset state: the tables' pinned entries and permutation, and no result. (Where the spec
states no value, the ports, nothing is stated.) -/
def Obligations.ResetStateHoldsThePinnedEntries : Prop :=
  State.reset.tables.readSbox 0 0 = 3 ∧ State.reset.tables.readSbox 1 0 = 13 ∧
  State.reset.tables.readSbox 2 0 = 14 ∧ State.reset.tables.readSbox 3 0 = 10 ∧
  State.reset.tables.readSbox 4 0 = 7 ∧ State.reset.tables.readSbox 5 0 = 2 ∧
  State.reset.tables.readSbox 6 0 = 12 ∧ State.reset.tables.readSbox 7 0 = 4 ∧
  State.reset.tables.readPerm 0 = 16 ∧
  (∀ v, 1 ≤ v → v ≤ 32 → ∃ j, State.reset.tables.readPerm j = v) ∧
  State.reset.result = none ∧ State.reset.refused = false

/-- R118: asserting reset changes no table, wherever it falls in a host's sequence, and no later
transaction returns anything else for it. (That the ports and the mark stay is the model's choice, log
8.) That reset has no duration is the model's choice, log 15. -/
def Obligations.AssertedResetHasNoEffectOnLaterResults : Prop :=
  ∀ (s : State) (cs : List Command),
    s.assertReset.tables = s.tables ∧ resultsOf cs s.assertReset = resultsOf cs s

/-- R119: the first transaction after power-up behaves as any later one. -/
def Obligations.FirstTransactionIsLikeAnyOther : Prop :=
  ∀ (history : List Command) (c : Command),
    (transact c State.reset).result = (transact c (transactAll history State.reset)).result

/-! ### Several units, several transactions in progress

The clocked layer of Machine/Concurrent.lean is the model's choice, log 9. -/

/-- R124 and R40, over the layer of log 9: without a reset, whatever the latency and the schedule, a
unit has returned the atomic model's outcomes of the commands issued to it, in issue order, and those in
progress are the rest. -/
def Obligations.PipelinedUnitRefinesTheAtomicModel : Prop :=
  ∀ (L : Latency) (T : Tables) (es : List UnitEvent), UnitEvent.assertReset ∉ es →
    (CoreUnit.idle.run L T es).returned ++
        (CoreUnit.idle.run L T es).inFlight.map (fun f => outcomeOf T f.command) =
      (issuedBy es).map (outcomeOf T)

/-- R124, over the layer of log 9: a fixed number of cycles from issue to result: after any schedule
without reset, once the latency has passed nothing is in progress and every issued command has its
outcome; a combinational unit never has anything in progress. -/
def Obligations.EveryIssuedTransactionReturnsWithinTheLatency : Prop :=
  ∀ (L : Latency) (T : Tables) (es : List UnitEvent), UnitEvent.assertReset ∉ es →
    ((CoreUnit.idle.run L T (es ++ List.replicate (cyclesOf L) .tick)).inFlight = [] ∧
      (CoreUnit.idle.run L T (es ++ List.replicate (cyclesOf L) .tick)).returned =
        (issuedBy es).map (outcomeOf T)) ∧
    (CoreUnit.idle.run .combinational T es).inFlight = []

/-- R124, over the layer of log 9: a result is not returned before its latency: alone on a unit of n
cycles, a transaction is in progress until the n-th cycle passes, and is returned by it. -/
def Obligations.ATransactionTakesExactlyItsLatency : Prop :=
  ∀ (T : Tables) (c : Command) (n m : Nat), m < n →
    (CoreUnit.idle.run (.cycles n) T (.issue c :: List.replicate m .tick)).returned = [] ∧
    (CoreUnit.idle.run (.cycles n) T (.issue c :: List.replicate n .tick)).returned = [outcomeOf T c]

/-- R118 for a pipelined unit, over the layer of log 9: a transaction in progress when reset is asserted
returns no result, then or later: after the reset the unit returns the outcomes of the commands issued
since, and nothing else. That reset has no duration is the model's choice, log 15. -/
def Obligations.ResetDropsTransactionsInProgress : Prop :=
  ∀ (L : Latency) (T : Tables) (u : CoreUnit) (es : List UnitEvent), UnitEvent.assertReset ∉ es →
    u.assertReset.returned = u.returned ∧
    (u.run L T (.assertReset :: es)).returned ++
        (u.run L T (.assertReset :: es)).inFlight.map (fun f => outcomeOf T f.command) =
      u.returned ++ (issuedBy es).map (outcomeOf T)

/-- R115, over the layer of log 9: units share the constant tables alone: an event of one unit changes
no other unit and no table, and does to its own unit what it would do to that unit alone. -/
def Obligations.UnitsDoNotAffectOneAnother : Prop :=
  ∀ (sys : CoreSystem) (k j : Nat) (e : UnitEvent),
    (sys.apply k e).tables = sys.tables ∧ (sys.apply k e).units.length = sys.units.length ∧
    (j ≠ k → (sys.apply k e).units[j]? = sys.units[j]?) ∧
    (sys.apply k e).units[k]? = sys.units[k]?.map (CoreUnit.apply Config.coreLatency sys.tables e)

/-- A host that stores a port value in its own memory reads it back, whatever HOST_BYTE_ORDER is (R34; the
form of the parameter is the model's, log 11). -/
def Obligations.HostLayoutLosesNothing : Prop :=
  ∀ (order : Equiv.Perm (Fin 8)) (v : Port), valueOfBytes order (layoutBytes order v) = v
end

