-- ==== Sys2Proof/Laws/State.lean ====
section
/-! SUPPORT. One lemma per field per update of the state, so that no later proof unfolds a record. -/

namespace Sys2Proof.Machine

variable (s : State) (c : Command) (y0 y1 : Port) (nbits w : Nat)

@[simp] theorem present_tables : (s.present c).tables = s.tables := rfl
@[simp] theorem present_op : (s.present c).op = c.op := rfl
@[simp] theorem present_a : (s.present c).a = c.a := rfl
@[simp] theorem present_b : (s.present c).b = c.b := rfl
@[simp] theorem present_result : (s.present c).result = s.result := rfl
@[simp] theorem present_refused : (s.present c).refused = s.refused := rfl
@[simp] theorem command_present : (s.present c).command = c := rfl
@[simp] theorem present_command : s.present s.command = s := rfl
@[simp] theorem present_present (d : Command) : (s.present c).present d = s.present d := rfl

@[simp] theorem withResult_tables : (s.withResult y0 y1).tables = s.tables := rfl
@[simp] theorem withResult_op : (s.withResult y0 y1).op = s.op := rfl
@[simp] theorem withResult_a : (s.withResult y0 y1).a = s.a := rfl
@[simp] theorem withResult_b : (s.withResult y0 y1).b = s.b := rfl
@[simp] theorem withResult_result : (s.withResult y0 y1).result = some ⟨y0, y1⟩ := rfl
@[simp] theorem withResult_refused : (s.withResult y0 y1).refused = s.refused := rfl
@[simp] theorem withResult_command : (s.withResult y0 y1).command = s.command := rfl
@[simp] theorem withResult_withResult (z0 z1 : Port) :
    (s.withResult y0 y1).withResult z0 z1 = s.withResult z0 z1 := rfl

@[simp] theorem markRefused_tables : s.markRefused.tables = s.tables := rfl
@[simp] theorem markRefused_op : s.markRefused.op = s.op := rfl
@[simp] theorem markRefused_a : s.markRefused.a = s.a := rfl
@[simp] theorem markRefused_b : s.markRefused.b = s.b := rfl
@[simp] theorem markRefused_result : s.markRefused.result = none := rfl
@[simp] theorem markRefused_refused : s.markRefused.refused = true := rfl

@[simp] theorem assertReset_tables : s.assertReset.tables = s.tables := rfl
@[simp] theorem assertReset_op : s.assertReset.op = s.op := rfl
@[simp] theorem assertReset_a : s.assertReset.a = s.a := rfl
@[simp] theorem assertReset_b : s.assertReset.b = s.b := rfl
@[simp] theorem assertReset_result : s.assertReset.result = none := rfl
@[simp] theorem assertReset_refused : s.assertReset.refused = s.refused := rfl

@[simp] theorem withFetchWord_command :
    (s.withFetchWord nbits w).command = commandOfTableWord nbits w := rfl

@[simp] theorem reset_tables : State.reset.tables = chipTables := rfl
@[simp] theorem reset_result : State.reset.result = none := rfl
@[simp] theorem reset_refused : State.reset.refused = false := rfl

end Sys2Proof.Machine
end

