-- ==== Sys2Proof/Laws/Ops.lean ====
section
/-! SUPPORT. What the shared operations of Machine/Ops.lean can do, and the bits of the operand forms of
Machine/Operands.lean. -/

namespace Sys2Proof.Machine

/-- Completing a transaction answers one next state, which differs in the results alone. -/
theorem complete_eq_next (y0 y1 : Port) (s t : State) :
    complete y0 y1 s = .next t ↔ t = s.withResult y0 y1 := by
  simp [complete, eq_comm]

/-- A refusal answers no next state. -/
theorem refuse_ne_next (r : Refusal) (t : State) : refuse r ≠ .next t := nofun

/-- `PERM(j)` lies in 1..32 (R31), so the input bit it names exists (R69). -/
theorem readPerm_range (T : Tables) (j : Fin 32) : 1 ≤ T.readPerm j ∧ T.readPerm j ≤ 32 := by
  have := T.perm[j].isLt
  simp only [Tables.readPerm]
  omega

theorem field_getLsbD (n : Nat) (p : Port) (i : Nat) :
    (field n p).getLsbD i = (decide (i < n) && p.getLsbD i) := by
  simp [field, BitVec.getLsbD_extractLsb']

/-- The low field of a port is its truncation. -/
theorem field_eq_setWidth (n : Nat) (p : Port) : field n p = p.setWidth n := by
  ext i hi
  simp [field]

/-- A value zero-extended into a port is read back by its field (R51, R52). -/
theorem field_zext64 {n : Nat} (h : n ≤ 64) (v : BitVec n) : field n (zext64 v) = v := by
  simp only [field_eq_setWidth, zext64, BitVec.setWidth_setWidth_of_le v h, BitVec.setWidth_eq]

/-- A zero-extended result is as narrow as the value (R52). -/
theorem zext64_toNat_lt {n : Nat} (h : n ≤ 64) (v : BitVec n) : (zext64 v).toNat < 2 ^ n := by
  rw [zext64, BitVec.toNat_setWidth_of_le h]
  exact v.isLt

/-- A joined block bit by bit: R below, L above (R32). -/
theorem joinHalves_getLsbD (l r : Half) (i : Nat) :
    (joinHalves l r).getLsbD i = if i < 32 then r.getLsbD i else l.getLsbD (i - 32) :=
  BitVec.getLsbD_append

/-- The halves of a joined block (R32). -/
theorem highHalf_joinHalves (l r : Half) : highHalf (joinHalves l r) = l := by
  simp only [highHalf, joinHalves, BitVec.extractLsb'_append_eq_left]

theorem lowHalf_joinHalves (l r : Half) : lowHalf (joinHalves l r) = r := by
  simp only [lowHalf, joinHalves, BitVec.extractLsb'_append_eq_right]

end Sys2Proof.Machine
end

