-- ==== Sys2Proof/Laws/Datapath.lean ====
section
/-! SUPPORT. What each function of the datapath computes, bit by bit or field by field: the facts later
proofs cite instead of unfolding it. -/

namespace Sys2Proof.Machine

/-- Expand bit by bit: where in r each bit of E comes from, the groups of six overlapping by two and
wrapping at both ends (R55). -/
theorem expand_getLsbD (r : Half) (i : Fin 48) :
    (expand r).getLsbD i = r.getLsbD ((4 * (i.val / 6) + i.val % 6 + 31) % 32) := by
  unfold expand
  fin_cases i <;> simp only [BitVec.getLsbD_or, BitVec.getLsbD_shiftLeft, BitVec.getLsbD_setWidth,
    BitVec.getLsbD_and, BitVec.getLsbD_ushiftRight] <;> simp

/-- The input bit that output bit `i` copies (R69, R70): `32 - PERM(31 - i)`, which lies in 0..31. -/
def permSource (T : Tables) (i : Fin 32) : Fin 32 := (T.perm[i.rev]).rev

/-- Permute bit by bit (R70). -/
theorem permute_getLsbD (T : Tables) (x : Half) (i : Fin 32) :
    (permute T x).getLsbD i = x.getLsbD (permSource T i) := by
  have h : 32 - T.readPerm i.rev = (permSource T i).val := by
    simp only [permSource, Tables.readPerm, Fin.val_rev]
  simp [permute, h]

/-- A lookup reads its own table at its own group (R62). -/
theorem lookup_eq (T : Tables) (x : Wide) (k : Fin 8) :
    lookup T x k = T.sbox[k][(group x k).toFin] := rfl

/-- Where every group is 0, Substitute joins the tables' entries 0 (R65). -/
theorem substitute_zero (T : Tables) :
    substitute T 0 = T.sbox[0][0] ++ T.sbox[1][0] ++ T.sbox[2][0] ++ T.sbox[3][0] ++ T.sbox[4][0] ++
      T.sbox[5][0] ++ T.sbox[6][0] ++ T.sbox[7][0] := rfl

/-- The two halves of an encrypted block (R93): the first round's output half, and the second's. -/
theorem highHalf_encrypt (T : Tables) (k : MasterKey) (p : Port) :
    highHalf (encrypt T k p) = highHalf p ^^^ roundOutput T (lowHalf p) (keySchedule k).1 :=
  highHalf_joinHalves _ _

theorem lowHalf_encrypt (T : Tables) (k : MasterKey) (p : Port) :
    lowHalf (encrypt T k p) =
      lowHalf p ^^^ roundOutput T (highHalf (encrypt T k p)) (keySchedule k).2 := by
  rw [highHalf_encrypt]
  exact lowHalf_joinHalves _ _

end Sys2Proof.Machine
end

