-- ==== Sys2Proof/Laws/Step.lean ====
section
/-! SUPPORT. Everything a step can do, said once: an operation of OP 0 to 6 writes its results, and OP 7
is refused. -/

namespace Sys2Proof.Machine

/-- The results of an operation as a function of its operands and the tables; none for the reserved
operation (R52, R53). -/
def resultOf (T : Tables) : Instr → Option Result
  | .expand a => some ⟨zext64 (expand (field 32 a)), 0⟩
  | .substitute a => some ⟨zext64 (substitute T (field 48 a)), 0⟩
  | .permute a => some ⟨zext64 (permute T (field 32 a)), 0⟩
  | .feistelRound a b => some ⟨zext64 (roundOutput T (field 32 a) (field 48 b)), 0⟩
  | .deriveSubkeys a =>
      some ⟨zext64 (keySchedule (field 56 a)).1, zext64 (keySchedule (field 56 a)).2⟩
  | .encryptBlock a b => some ⟨encrypt T (field 56 a) b, 0⟩
  | .sboxLookup a b => some ⟨zext64 (T.readSbox (tableSelect a) (field 6 b)), 0⟩
  | .reserved => none

/-- The inversion of `exec`: either the instruction has results, which are written and nothing else, or
it is the reserved one, which is refused. -/
theorem exec_eq (i : Instr) (s : State) :
    exec i s = match resultOf s.tables i with
      | some r => .next (s.withResult r.y0 r.y1)
      | none => .refused .reservedOperation := by
  cases i <;> rfl

/-- A next state of `exec` is the state with the results of the instruction written. -/
theorem exec_next {i : Instr} {s t : State} (h : exec i s = .next t) :
    ∃ r, resultOf s.tables i = some r ∧ t = s.withResult r.y0 r.y1 := by
  rw [exec_eq] at h
  split at h
  · next r hr => exact ⟨r, hr, by simpa [eq_comm] using h⟩
  · cases h

/-- The reserved operation is the one without results. -/
theorem resultOf_eq_none (T : Tables) (i : Instr) : resultOf T i = none ↔ i = .reserved := by
  cases i <;> simp [resultOf]

/-- The decoder reads the reserved operation from OP = 7 alone (R50). -/
theorem decodeCommand_eq_reserved (c : Command) : decodeCommand c = .reserved ↔ c.op.toNat = 7 := by
  obtain ⟨op, a, b⟩ := c
  have h : op.toNat < 8 := op.isLt
  simp only [decodeCommand]
  generalize op.toNat = n at h ⊢
  interval_cases n <;> simp

/-- The step on the ports' command. -/
theorem step_eq (s : State) :
    step s = match resultOf s.tables (decodeCommand s.command) with
      | some r => .next (s.withResult r.y0 r.y1)
      | none => .refused .reservedOperation := exec_eq _ _

/-- A next state of a step is the state with the results of its command written. -/
theorem step_next {s t : State} (h : step s = .next t) :
    ∃ r, resultOf s.tables (decodeCommand s.command) = some r ∧ t = s.withResult r.y0 r.y1 :=
  exec_next h

end Sys2Proof.Machine
end

