-- ==== Sys2Proof/Laws/Transactions.lean ====
section
/-! SUPPORT. What a host's transaction does, said once. -/

namespace Sys2Proof.Machine

/-- A transaction presents its command, and then either its results stand on Y0 and Y1 or the refused
mark is set. -/
theorem transact_eq (c : Command) (s : State) :
    transact c s = match resultOf s.tables (decodeCommand c) with
      | some r => (s.present c).withResult r.y0 r.y1
      | none => (s.present c).markRefused := by
  simp only [transact, step_eq, command_present, present_tables]
  cases resultOf s.tables (decodeCommand c) <;> rfl

@[simp] theorem transact_tables (c : Command) (s : State) : (transact c s).tables = s.tables := by
  rw [transact_eq]
  split <;> rfl

/-- The result a transaction leaves, a function of its command and the tables (R21). -/
theorem transact_result (c : Command) (s : State) :
    (transact c s).result = resultOf s.tables (decodeCommand c) := by
  rw [transact_eq]
  split <;> simp [*]

/-- The refused mark after a transaction: set by OP = 7, else as before (R110). -/
theorem transact_refused (c : Command) (s : State) :
    (transact c s).refused = (s.refused || decide (c.op.toNat = 7)) := by
  rw [transact_eq]
  split
  · next r hr =>
    have : decodeCommand c ≠ .reserved := fun h => by simp [h, resultOf] at hr
    simp [(decodeCommand_eq_reserved c).not.mp this]
  · next hr => simp [(decodeCommand_eq_reserved c).mp ((resultOf_eq_none _ _).mp hr)]

theorem outcomeOf_eq (T : Tables) (c : Command) : outcomeOf T c = resultOf T (decodeCommand c) := by
  rw [outcomeOf, transact_result]

@[simp] theorem transactAll_nil (s : State) : transactAll [] s = s := rfl
@[simp] theorem transactAll_cons (c : Command) (cs : List Command) (s : State) :
    transactAll (c :: cs) s = transactAll cs (transact c s) := rfl

end Sys2Proof.Machine
end

