-- ==== Sys2Proof/Laws/Concurrent.lean ====
section
/-! SUPPORT. The events of a unit, one equation each, and the schedule as its first event and the rest. -/

namespace Sys2Proof.Machine

variable (L : Latency) (T : Tables) (c : Command) (u : CoreUnit)

@[simp] theorem apply_issue : u.apply L T (.issue c) = u.issue L T c := rfl
@[simp] theorem apply_tick : u.apply L T .tick = u.tick T := rfl
@[simp] theorem apply_assertReset : u.apply L T .assertReset = u.assertReset := rfl

@[simp] theorem run_nil : u.run L T [] = u := rfl
@[simp] theorem run_cons (e : UnitEvent) (es : List UnitEvent) :
    u.run L T (e :: es) = (u.apply L T e).run L T es := rfl
theorem run_append (es fs : List UnitEvent) :
    u.run L T (es ++ fs) = (u.run L T es).run L T fs := List.foldl_append

@[simp] theorem unit_assertReset_inFlight : u.assertReset.inFlight = [] := rfl
@[simp] theorem unit_assertReset_returned : u.assertReset.returned = u.returned := rfl

end Sys2Proof.Machine
end

