-- ==== Sys2Proof/Laws/Decode.lean ====
section
/-! SUPPORT. The packing of a command and the decoder on a packed command, each said once. -/

namespace Sys2Proof

/-- A packed command is unpacked to itself (R46). -/
theorem unpack_pack (c : Command) : Command.unpack c.pack = c := by
  obtain ⟨op, a, b⟩ := c
  simp only [Command.unpack, Command.pack, Command.mk.injEq]
  refine ⟨?_, ?_, ?_⟩
  · rw [BitVec.extractLsb'_append_eq_of_le (by norm_num),
      BitVec.extractLsb'_append_eq_of_le (by norm_num)]
    simp
  · rw [BitVec.extractLsb'_append_eq_of_le (by norm_num),
      BitVec.extractLsb'_append_eq_of_add_le (by norm_num)]
    simp
  · rw [BitVec.extractLsb'_append_eq_of_add_le (by norm_num)]
    simp

/-- The decoder on a number of 131 bits. -/
theorem decode_toNat (w : BitVec 131) :
    decode w.toNat = .ok (decodeCommand (Command.unpack w)) := by
  simp only [decode, w.isLt, if_true, BitVec.ofNat_toNat, BitVec.setWidth_eq]

/-- A decoded instruction has the operation code it was read from (R49). -/
theorem opcode_decodeCommand (c : Command) : (decodeCommand c).opcode = c.op := by
  obtain ⟨op, a, b⟩ := c
  obtain ⟨⟨n, hn⟩⟩ := op
  have h : n < 8 := hn
  simp only [decodeCommand, BitVec.toNat]
  interval_cases n <;> rfl

end Sys2Proof
end

