-- ==== Sys2Proof/Laws/PerInstr.lean ====
section
/-! SUPPORT. Statements about every instruction as data, one lemma per constructor of `Instr`. -/

/-- The decoder reads each instruction back from its own command (R49). -/
def Sys2Proof.Laws.CommandRoundTrip.Statement (i : Sys2Proof.Instr) : Prop :=
  Sys2Proof.decodeCommand (Sys2Proof.encodeCommand i) = i

namespace Sys2Proof.Laws.CommandRoundTrip

theorem expand (a : Port) : Statement (.expand a) := rfl
theorem substitute (a : Port) : Statement (.substitute a) := rfl
theorem permute (a : Port) : Statement (.permute a) := rfl
theorem feistelRound (a b : Port) : Statement (.feistelRound a b) := rfl
theorem deriveSubkeys (a : Port) : Statement (.deriveSubkeys a) := rfl
theorem encryptBlock (a b : Port) : Statement (.encryptBlock a b) := rfl
theorem sboxLookup (a b : Port) : Statement (.sboxLookup a b) := rfl
theorem reserved : Statement .reserved := rfl

end Sys2Proof.Laws.CommandRoundTrip
end

