-- ==== Sys2Proof/Laws/Tables.lean ====
section
/-! SUPPORT. What the constraints on the tables (R16, R18, R19) give the functions that read them. -/

namespace Sys2Proof.Machine

/-- With a PERM_TABLE that is a permutation, no input bit is copied twice (R71). -/
theorem permSource_injective {T : Tables} (h : T.PermIsPermutation) :
    Function.Injective (permSource T) := fun _ _ hij =>
  Fin.rev_injective (h _ _ (Fin.rev_injective hij))

theorem permSource_bijective {T : Tables} (h : T.PermIsPermutation) :
    Function.Bijective (permSource T) :=
  Finite.injective_iff_bijective.mp (permSource_injective h)

/-- The pinned entry of PERM_TABLE names the source of output bit 31 (R72). -/
theorem permSource_pinned {T : Tables} (h : T.PermPinned) : permSource T 31 = 16 := by
  have e : T.perm[Fin.rev (31 : Fin 32)] = 15 := h
  rw [permSource, e]
  decide

/-- Entry 0 of table number `t + 1` is pinned (R16), read through `SBOX`. -/
theorem readSbox_zero {T : Tables} (h : T.SboxPinned) (t : Fin 8) : T.readSbox t 0 = pinnedSbox[t] :=
  h t

end Sys2Proof.Machine
end

