-- ==== Sys2Proof/Tests/Slice0.lean ====
section
/-! SUPPORT. The model's own tests. Expected values come from the source's worked examples and the
derived vectors of spec/95_test_vectors.md, named at each test; and one witness for the hypotheses of
each statement that has some. -/

namespace Sys2Proof.Tests

open Sys2Proof Sys2Proof.Machine

/-! ### Helpers -/

/-- Tables that meet R15 to R19 and are no published table: entries 1 to 63 follow a counter, and the
permutation exchanges the values 1 and 16. -/
def someTables : Tables :=
  { sbox := Vector.ofFn fun t => Vector.ofFn
      (Fin.cases pinnedSbox[t] fun e => BitVec.ofNat 4 (7 * e.val + t.val))
    perm := Vector.ofFn fun j => if j = 0 then 15 else if j = 15 then 0 else j }

/-- The candidate permutation of spec/93 GK3 (general knowledge, not CORE's table unless confirmed): the
conditional vectors of spec/95 section 4 are computed with it. -/
def gk3Tables : Tables :=
  { someTables with
    perm := #v[15, 6, 19, 20, 28, 11, 27, 16, 0, 14, 22, 25, 4, 17, 30, 9,
      1, 7, 23, 13, 31, 26, 2, 8, 18, 12, 29, 5, 21, 10, 3, 24] }

/-- A state with given tables and a presented command. -/
def presented (T : Tables) (op : OpCode) (a b : Port) : State :=
  ({ State.reset with tables := T } : State).present ⟨op, a, b⟩

/-- The results a step answers with, if it answers a next state. -/
def results (s : State) : Option Result :=
  match step s with
  | .next t => t.result
  | .fault _ => none
  | .refused _ => none

/-- Whether a step is refused as the reserved operation. -/
def isRefused (s : State) : Bool :=
  match step s with
  | .next _ => false
  | .fault _ => false
  | .refused r => r == .reservedOperation

/-! ### Decoding: words written out as OP | A | B (R46, R49), the encodings of spec/95 -/

theorem test_decode_expand :
    (decode 0x0_00000000_12345678_0000000000000000).toOption = some (.expand 0x12345678) := by decide
theorem test_decode_substitute :
    (decode 0x1_FFFF000000000000_0000000000000000).toOption = some (.substitute 0xFFFF000000000000) := by
  decide
theorem test_decode_permute :
    (decode 0x2_0000000000010000_0000000000000000).toOption = some (.permute 0x10000) := by decide
theorem test_decode_feistelRound :
    (decode 0x3_0000000080000000_0000400000000001).toOption =
      some (.feistelRound 0x80000000 0x400000000001) := by decide
theorem test_decode_deriveSubkeys :
    (decode 0x4_FF33333333333333_0000000000000000).toOption = some (.deriveSubkeys 0xFF33333333333333) := by
  decide
theorem test_decode_encryptBlock :
    (decode 0x5_0033333333333333_1234567887654321).toOption =
      some (.encryptBlock 0x33333333333333 0x1234567887654321) := by decide
theorem test_decode_sboxLookup :
    (decode 0x6_0000000000000007_000000000000003F).toOption = some (.sboxLookup 7 0x3F) := by decide
theorem test_decode_reserved :
    (decode 0x7_FFFFFFFFFFFFFFFF_FFFFFFFFFFFFFFFF).toOption = some .reserved := by decide
/-- The least number wider than a command is rejected. -/
theorem test_decode_too_wide : (decode 0x8_0000000000000000_0000000000000000).toOption = none := by decide

/-- V-SRC-3 as a line (R54). -/
theorem test_line_encryptBlock : (Instr.encryptBlock 0x0033333333333333 0x1234567887654321).line =
    "ENCRYPT_BLOCK 0x0033333333333333, 0x1234567887654321" := by decide +kernel

/-! ### WellFormed smoke: an ill-formed term for each check -/

theorem test_wf_reserved : Instr.wf .reserved = false := by decide
theorem test_wf_expand : Instr.wf (.expand 0x100000000) = false := by decide
theorem test_wf_substitute : Instr.wf (.substitute 0x1000000000000) = false := by decide
theorem test_wf_permute : Instr.wf (.permute 0x100000000) = false := by decide
theorem test_wf_feistelRound_a : Instr.wf (.feistelRound 0x100000000 0) = false := by decide
theorem test_wf_feistelRound_b : Instr.wf (.feistelRound 0 0x1000000000000) = false := by decide
theorem test_wf_deriveSubkeys : Instr.wf (.deriveSubkeys 0x100000000000000) = false := by decide
theorem test_wf_encryptBlock : Instr.wf (.encryptBlock 0x100000000000000 0) = false := by decide
theorem test_wf_sboxLookup_a : Instr.wf (.sboxLookup 8 0) = false := by decide
theorem test_wf_sboxLookup_b : Instr.wf (.sboxLookup 0 0x40) = false := by decide
theorem test_wf_accepts : Instr.wf (.encryptBlock 0x33333333333333 0x1234567887654321) = true := by decide

/-! ### Operations, one step each -/

/-- V-EXP-8, a mixed value. -/
theorem test_expand_mixed :
    results (presented someTables 0 0x12345678 0) = some ⟨0x0A41A82AC3F0, 0⟩ := by decide +kernel
/-- V-EXP-14: bit 0 wraps to the top (C1), and A[63:32] is ignored. -/
theorem test_expand_wrap :
    results (presented someTables 0 0x100000001 0) = some ⟨0x800000000002, 0⟩ := by decide +kernel

/-- V-SUB-2, with the chip's own tables: only their pinned entries are read. -/
theorem test_substitute_zero :
    results (presented chipTables 1 0xFFFF000000000000 0) = some ⟨0x3DEA72C4, 0⟩ := by decide +kernel
/-- V-SUB-5: group 1 alone is nonzero, S1 = 0x20; table 1 entry 32 of these tables is 7 * 31 mod 16 = 9. -/
theorem test_substitute_group1 :
    results (presented someTables 1 0x800000000000 0) = some ⟨0x9DEA72C4, 0⟩ := by decide +kernel

/-- V-SRC-2, the source's example. -/
theorem test_permute_example :
    results (presented someTables 2 0x00010000 0) = some ⟨0x80000000, 0⟩ := by decide +kernel
/-- V-GK3-1: Permute(0x3DEA72C4) under GK3's table. -/
theorem test_permute_gk3 :
    results (presented gk3Tables 2 0x3DEA72C4 0) = some ⟨0x207D43F7, 0⟩ := by decide +kernel

/-- V-GK3-3 (V-RND-4): B[63:48] ignored, whitening with k[31:0]. -/
theorem test_feistelRound_gk3 :
    results (presented gk3Tables 3 0x12345678 0xFFFF0A41A82AC3F0) = some ⟨0x88578007, 0⟩ := by
  decide +kernel
/-- V-GK3-2 (V-RND-2): whitening with all ones. -/
theorem test_feistelRound_ones :
    results (presented gk3Tables 3 0xFFFFFFFF 0xFFFFFFFFFFFF) = some ⟨0xDF82BC08, 0⟩ := by decide +kernel

/-- V-KS-2, distinct nibbles. -/
theorem test_deriveSubkeys_nibbles :
    results (presented someTables 4 0x000123456789ABCD 0) =
      some ⟨0x23456789ABCD, 0x0123456789AB⟩ := by decide +kernel
/-- V-KS-5: k[55] reaches K2 only. -/
theorem test_deriveSubkeys_top :
    results (presented someTables 4 0x0080000000000000 0) = some ⟨0, 0x800000000000⟩ := by decide +kernel

/-- V-GK3-6 (V-ENC-3): both rounds and both whitenings count. -/
theorem test_encryptBlock_gk3 :
    results (presented gk3Tables 5 0x00C040540FC0FFA9 0xADB7A241828787F4) =
      some ⟨0x820A1E1FF6F504FC, 0⟩ := by decide +kernel
/-- V-GK3-4 (V-ENC-4): A[63:56] ignored. -/
theorem test_encryptBlock_mask :
    results (presented gk3Tables 5 0xFF00000000000000 0x207D43F700000000) =
      some ⟨0x00000000207D43F7, 0⟩ := by decide +kernel

/-- V-SBL-11: table 8, index 0, every ignored bit set, with the chip's own tables. -/
theorem test_sboxLookup_ignored :
    results (presented chipTables 6 0xFFFFFFFFFFFFFFFF 0xFFFFFFFFFFFFFFC0) = some ⟨0x4, 0⟩ := by
  decide +kernel
/-- V-SBL-2: table 2, index 0. -/
theorem test_sboxLookup_table2 :
    results (presented chipTables 6 1 0) = some ⟨0xD, 0⟩ := by decide +kernel

/-- V-RSV-2: OP = 7 is refused. -/
theorem test_reserved_refused :
    isRefused (presented someTables 7 0xFFFFFFFFFFFFFFFF 0xFFFFFFFFFFFFFFFF) = true := by decide +kernel
/-- V-RSV-1: no Y0, Y1, and the state is marked refused. -/
theorem test_reserved_mark :
    (transact ⟨7, 0, 0⟩ State.reset).result = none ∧ (transact ⟨7, 0, 0⟩ State.reset).refused = true :=
  ⟨rfl, rfl⟩

/-- R118, R124: of two transactions issued one cycle apart on a unit of two cycles, the first is returned
and the second dropped by the reset. -/
theorem test_unit_reset :
    CoreUnit.idle.run (.cycles 2) someTables
      [.issue ⟨4, 0xFF, 0⟩, .tick, .issue ⟨4, 1, 0⟩, .tick, .assertReset, .tick] =
        ⟨[], [some ⟨0xFF, 0⟩]⟩ := by decide +kernel

/-- The step after reset runs the operation of a row's word. -/
theorem test_step_of_word :
    results (State.reset.withFetchWord 8 1) = some ⟨0x3DEA72C4, 0⟩ := by decide +kernel

/-! ### Witnesses: the hypotheses of each statement can be met together -/

theorem someTables_admissible : someTables.Admissible where
  sboxPinned := by unfold Tables.SboxPinned; decide +kernel
  permIsPermutation := by unfold Tables.PermIsPermutation; decide +kernel
  permPinned := by unfold Tables.PermPinned; decide +kernel

/-- A state of the Transaction statements. -/
theorem witness_admissible_state : (presented someTables 3 1 2).tables.Admissible := someTables_admissible

theorem witness_invariant : (presented someTables 4 0xFF 0).Inv ∧
    step (presented someTables 4 0xFF 0) =
      .next ((presented someTables 4 0xFF 0).withResult 0xFF 0) :=
  ⟨⟨someTables_admissible, nofun⟩, rfl⟩

theorem witness_EncodeOfDecode : 2 ^ 131 ≤ 2 ^ 131 ∧
    ((0x3_0000000000000001_0000000000000002 : BitVec 131).extractLsb' 128 3).toNat < 7 ∧
    ((0x3_0000000000000001_0000000000000002 : BitVec 131).extractLsb' 128 3).toNat ∈ [3, 5, 6] ∧
    ((0x4_0000000000000001_0000000000000002 : BitVec 131).extractLsb' 128 3).toNat ∈ [0, 1, 2, 4] := by
  decide +kernel

theorem witness_StepRuns : decode 0x0_0000000000000001_0000000000000000 = .ok (.expand 1) ∧
    decodeTableWord 8 5 = some (.encryptBlock 0 0) := ⟨rfl, rfl⟩

theorem witness_Outcomes : (presented someTables 6 0 0).op.toNat ≤ 6 ∧
    (presented someTables 7 0 0).op.toNat = 7 := by decide +kernel

theorem witness_SubstituteIndependent : someTables.sbox[(7 : Fin 8)] = gk3Tables.sbox[(7 : Fin 8)] ∧
    (1 : Wide).extractLsb' (42 - 6 * (7 : Fin 8).val) 6 =
      (0x800000000001 : Wide).extractLsb' (42 - 6 * (7 : Fin 8).val) 6 := ⟨rfl, by decide +kernel⟩

theorem witness_PermuteIsPermutation : someTables.PermIsPermutation ∧ someTables.PermPinned :=
  ⟨someTables_admissible.permIsPermutation, someTables_admissible.permPinned⟩

theorem witness_RoundOutput : someTables.Admissible ∧ expand 1 ^^^ 0x800000000002 = 0 :=
  ⟨someTables_admissible, by decide +kernel⟩

theorem witness_FeistelRoundSameInputs : expand 1 ^^^ 0x800000000002 = expand 0x80000000 ^^^ 0x400000000001 ∧
    (0x100000000 : Wide).setWidth 32 = (0x200000000 : Wide).setWidth 32 := by decide +kernel

theorem witness_Subkeys : (0x1FF : MasterKey).extractLsb' 8 48 = (0x100 : MasterKey).extractLsb' 8 48 ∧
    (0xFF000000000001 : MasterKey).extractLsb' 0 48 = (1 : MasterKey).extractLsb' 0 48 := by decide +kernel

theorem witness_EncryptTwoRounds : ∃ (l0 r0 l1 r1 l2 r2 : Half) (k1 k2 : Wide),
    l0 = ((5 : Port) >>> 32).setWidth 32 ∧ r0 = (5 : Port).setWidth 32 ∧ (k1, k2) = keySchedule 7 ∧
    l1 = r0 ∧ r1 = l0 ^^^ roundOutput someTables r0 k1 ∧ l2 = r1 ∧
    r2 = l1 ^^^ roundOutput someTables r1 k2 := ⟨_, _, _, _, _, _, _, _, rfl, rfl, rfl, rfl, rfl, rfl, rfl⟩

theorem witness_EncryptTwoBlocks : (1 : Port) ≠ 2 := by decide

theorem witness_IgnoredBits : (0xFF00000000000000 : Port).setWidth 56 = (0 : Port).setWidth 56 ∧
    (0x100000000 : Port).setWidth 32 = (0 : Port).setWidth 32 ∧
    (0xFFFF000000000000 : Port).setWidth 48 = (0 : Port).setWidth 48 ∧
    (8 : Port).setWidth 3 = (0 : Port).setWidth 3 ∧ (0x40 : Port).setWidth 6 = (0 : Port).setWidth 6 := by
  decide

/-- For the statements about a next state of a step, one for each clause on OP. -/
theorem witness_ResultsFit : ∀ op : OpCode, op ≠ 7 → ∃ t r,
    step (presented someTables op 1 2) = .next t ∧ t.result = some r := by
  intro op h
  refine (?_ : ∃ t, step (presented someTables op 1 2) = .next t ∧ ∃ r, t.result = some r).imp
    fun t ht => ⟨ht.2.choose, ht.1, ht.2.choose_spec⟩
  cases e : resultOf someTables (decodeCommand ⟨op, 1, 2⟩) with
  | none =>
    have := (decodeCommand_eq_reserved _).mp ((resultOf_eq_none _ _).mp e)
    exact absurd (BitVec.eq_of_toNat_eq this) h
  | some r =>
    refine ⟨(presented someTables op 1 2).withResult r.y0 r.y1, ?_, _, rfl⟩
    have h' : resultOf (presented someTables op 1 2).tables
        (decodeCommand (presented someTables op 1 2).command) = some r := e
    rw [step_eq, h']

theorem witness_ExecNext : ∃ t, exec (.sboxLookup 0 0) (presented someTables 6 0 0) = .next t := ⟨_, rfl⟩

theorem witness_ResultsDepend : (presented someTables 0 0 0).tables = (presented someTables 5 1 2).tables :=
  rfl

theorem witness_Order : [(⟨0, 1, 0⟩ : Command), ⟨7, 0, 0⟩].Perm [⟨7, 0, 0⟩, ⟨0, 1, 0⟩] :=
  List.Perm.swap _ _ _

theorem witness_RefusedMark : (transact ⟨7, 0, 0⟩ State.reset).refused = true ∧
    ∃ c ∈ [(⟨0, 1, 0⟩ : Command), ⟨7, 0, 0⟩], c.op = 7 := ⟨rfl, ⟨7, 0, 0⟩, by simp, rfl⟩

theorem witness_Accepted : State.reset.refused = false ∧
    ∀ c ∈ [(⟨6, 1, 0⟩ : Command), ⟨0, 0, 0⟩], c.op.toNat ≤ 6 := ⟨rfl, by decide⟩

theorem witness_Reset_values : (1 : Nat) ≤ 32 ∧ (32 : Nat) ≤ 32 := by decide

theorem witness_Schedule :
    UnitEvent.assertReset ∉ [UnitEvent.issue ⟨0, 1, 0⟩, .tick, .issue ⟨7, 0, 0⟩] := by decide

theorem witness_Latency : 1 < 2 := by decide

theorem witness_Units : (0 : Nat) ≠ 1 := by decide

end Sys2Proof.Tests
end

section
/-! ## Proofs about the state (10_state.md): what the updates of the state and the tables after reset
keep, then the statements of R15 to R21 and R29 assembled from these facts. -/

namespace Sys2Proof.Machine

variable {s t : State} {T : Tables}

/-! ### The widest Y1 -/

/-- Y1 holds zero or a subkey of DERIVE_SUBKEYS (R52). -/
theorem resultOf_y1_lt {i : Instr} {r : Result} (h : resultOf T i = some r) : r.y1.toNat < 2 ^ 48 := by
  cases i <;> cases h
  case deriveSubkeys a => exact zext64_toNat_lt (by decide) (keySchedule (field 56 a)).2
  all_goals exact Nat.two_pow_pos 48

/-! ### The invariant under each update of the state -/

/-- The host's ports are no part of the invariant. -/
theorem State.Inv.present (h : s.Inv) (c : Command) : (s.present c).Inv :=
  ⟨h.tablesAdmissible, h.y1Narrow⟩

theorem State.Inv.withResult (h : s.Inv) (y0 : Port) {y1 : Port} (hy : y1.toNat < 2 ^ 48) :
    (s.withResult y0 y1).Inv where
  tablesAdmissible := h.tablesAdmissible
  y1Narrow r hr := by
    cases hr
    exact hy

theorem State.Inv.markRefused (h : s.Inv) : s.markRefused.Inv := ⟨h.tablesAdmissible, nofun⟩

theorem State.Inv.assertReset (h : s.Inv) : s.assertReset.Inv := ⟨h.tablesAdmissible, nofun⟩

/-- The one way a step changes the state keeps the invariant: an operation writes its results. -/
theorem State.Inv.step (h : s.Inv) (hstep : step s = .next t) : t.Inv := by
  obtain ⟨r, hr, rfl⟩ := step_next hstep
  exact h.withResult r.y0 (resultOf_y1_lt hr)

theorem State.Inv.transact (h : s.Inv) (c : Command) : (transact c s).Inv := by
  rw [transact_eq]
  split
  · next r hr => exact (h.present c).withResult r.y0 (resultOf_y1_lt hr)
  · exact (h.present c).markRefused

/-- Settles O51, by the cases of a step: results written, or a refusal marked. -/
theorem everyStepKeepsTheInvariant : Obligations.EveryStepKeepsTheInvariant :=
  ⟨fun _ _ h hstep => h.step hstep, fun _ c h => h.transact c, fun _ h => h.assertReset⟩

/-! ### The tables stay, so results depend on nothing else -/

theorem step_tables (h : step s = .next t) : t.tables = s.tables := by
  obtain ⟨r, -, rfl⟩ := step_next h
  exact withResult_tables s r.y0 r.y1

@[simp] theorem transactAll_tables (cs : List Command) (s : State) :
    (transactAll cs s).tables = s.tables := by
  induction cs generalizing s with
  | nil => rfl
  | cons c cs ih => rw [transactAll_cons, ih, transact_tables]

/-- Settles O41, by induction on the host's sequence. -/
theorem nothingWritesTheTables : Obligations.NothingWritesTheTables :=
  ⟨fun _ _ => step_tables, transactAll_tables, assertReset_tables⟩

/-- Settles O44: a next state of `exec` is the old one with the results written. -/
theorem operationsWriteOnlyTheirResults : Obligations.OperationsWriteOnlyTheirResults := by
  intro i s t h
  obtain ⟨r, -, rfl⟩ := exec_next h
  exact ⟨rfl, rfl, rfl, rfl, rfl, r, rfl⟩

/-- Settles O45: a transaction's result is `resultOf` the tables and the command, and no history writes
the tables. -/
theorem resultsDependOnCommandAndTablesOnly : Obligations.ResultsDependOnCommandAndTablesOnly := by
  intro s s' history history' c hT
  simp only [transact_result, transactAll_tables, hT]

/-! ### The tables after reset -/

/-- Entry 0 of the chip's table number `t + 1`. -/
theorem chipTables_sboxPinned : chipTables.SboxPinned := fun t => by
  simp [chipTables, chipSbox]

theorem chipTables_permPinned : chipTables.PermPinned := by
  simp [Tables.PermPinned, chipTables, chipPerm]

/-- The chip's entry `j` of PERM_TABLE as a list of 32: 16 in front, the open order behind it. -/
theorem chipTables_perm (j : Fin 32) : chipTables.perm[j] =
    Fin.cons (α := fun _ => Fin 32) pinnedPerm (fun k => pinnedPerm.succAbove (Config.permTail k)) j := by
  simp [chipTables, chipPerm, Fin.cons]

/-- `Fin.succAbove` skips 16 and repeats nothing, so no value stands twice, whatever the open order. -/
theorem chipTables_permIsPermutation : chipTables.PermIsPermutation := by
  have tail : Function.Injective fun k => pinnedPerm.succAbove (Config.permTail k) :=
    Fin.succAbove_right_injective.comp Config.permTail.injective
  have front : pinnedPerm ∉ Set.range fun k => pinnedPerm.succAbove (Config.permTail k) := by
    rintro ⟨k, hk⟩
    exact Fin.succAbove_ne _ _ hk
  intro i j h
  rw [chipTables_perm, chipTables_perm] at h
  exact Fin.cons_injective_iff.mpr ⟨front, tail⟩ h

theorem chipTables_admissible : chipTables.Admissible :=
  ⟨chipTables_sboxPinned, chipTables_permIsPermutation, chipTables_permPinned⟩

/-- Settles O50: the chip's tables are admissible, and there is no result whose Y1 could be wide. -/
theorem resetStateIsInvariant : Obligations.ResetStateIsInvariant := ⟨chipTables_admissible, nofun⟩

/-- Every value of 1..32 stands in a PERM_TABLE without repeats (R18). -/
theorem exists_readPerm_eq (h : T.PermIsPermutation) {v : Nat} (hv : 1 ≤ v) (hv' : v ≤ 32) :
    ∃ j, T.readPerm j = v := by
  have injective : Function.Injective fun j : Fin 32 => T.perm[j] := fun i j => h i j
  obtain ⟨j, hj⟩ := Finite.surjective_of_injective injective ⟨v - 1, by omega⟩
  have hval : T.perm[j].val = v - 1 := congrArg Fin.val hj
  exact ⟨j, by rw [Tables.readPerm, hval, Nat.sub_add_cancel hv]⟩

theorem readPerm_zero (h : T.PermPinned) : T.readPerm 0 = 16 := congrArg (·.val + 1) h

/-- Settles O52, from the pinned entries and the permutation of the chip's admissible tables. -/
theorem resetStateHoldsThePinnedEntries : Obligations.ResetStateHoldsThePinnedEntries := by
  have sbox := readSbox_zero chipTables_sboxPinned
  exact ⟨sbox 0, sbox 1, sbox 2, sbox 3, sbox 4, sbox 5, sbox 6, sbox 7,
    readPerm_zero chipTables_permPinned,
    fun _ => exists_readPerm_eq chipTables_permIsPermutation, reset_result, reset_refused⟩

end Sys2Proof.Machine
end

section
/-! ## Proofs about values and their order (20_memory.md): the two table reads, the fields of a block and
of a 48-bit value, a host's layout of a port, and transactions repeated and reordered. -/

namespace Sys2Proof.Machine

variable {s t : State}

/-! ### Reads and fields -/

/-- Settles O40: the reads are the entries, and an entry of PERM_TABLE is in range. -/
theorem tableReadsAreTheEntries : Obligations.TableReadsAreTheEntries :=
  fun T _ _ j => ⟨rfl, rfl, readPerm_range T j⟩

/-- The assembly written with a shift (R32). -/
theorem shiftLeft_or_eq_joinHalves (l r : Half) :
    (l.setWidth 64 <<< 32) ||| r.setWidth 64 = joinHalves l r := by
  rw [← BitVec.setWidth_append_eq_shiftLeft_setWidth_or]
  exact BitVec.setWidth_eq _

theorem joinHalves_highHalf_lowHalf (p : Port) : joinHalves (highHalf p) (lowHalf p) = p :=
  BitVec.extractLsb'_append_extractLsb' (w := 32) (len := 32)

/-- Settles O42: both assemblies join the halves, and the joined halves are the block. -/
theorem blockHalvesReassemble : Obligations.BlockHalvesReassemble := fun p =>
  ⟨(shiftLeft_or_eq_joinHalves _ _).trans (joinHalves_highHalf_lowHalf p),
    joinHalves_highHalf_lowHalf p, rfl, rfl⟩

/-- The start of group `k + 1`, counted from the source's group 1 (R33). -/
theorem group_eq_extractLsb' (x : Wide) (k : Fin 8) :
    group x k = x.extractLsb' (48 - 6 * (k.val + 1)) 6 := by
  have hstart : 42 - 6 * k.val = 48 - 6 * (k.val + 1) := by omega
  rw [group, hstart]

/-- A nibble of the Substitution: `4 * k.rev` bits of later nibbles stand below nibble `k + 1`. The
width stays written as a sum, so that the rules of `++` see where the nibbles meet. -/
theorem extractLsb'_substitute (T : Tables) (x : Wide) (k : Fin 8) :
    (substitute T x).extractLsb' (32 - 4 * (k.val + 1)) 4 = lookup T x k := by
  unfold substitute
  fin_cases k <;>
    simp (disch := decide) [BitVec.extractLsb'_append_eq_of_le,
      BitVec.extractLsb'_append_eq_of_add_le, -Nat.reduceAdd]

/-- Neighbouring groups are neighbouring fields, so the concatenation is one field, the whole value. -/
theorem append_groups (x : Wide) :
    group x 0 ++ group x 1 ++ group x 2 ++ group x 3 ++ group x 4 ++ group x 5 ++ group x 6 ++
      group x 7 = x := by
  simp (disch := decide) only [group, BitVec.extractLsb'_append_extractLsb'_eq_extractLsb',
    -Nat.reduceAdd]
  exact BitVec.extractLsb'_eq_self

/-- Settles O43: the groups are fields in descending order, and the nibbles follow them. -/
theorem groupsAndNibblesStandInOrder : Obligations.GroupsAndNibblesStandInOrder := fun x =>
  ⟨group_eq_extractLsb' x, fun T k => extractLsb'_substitute T x k, append_groups x⟩

/-! ### A host's layout -/

/-- Byte `j` of the value stands at the position `order` sends to `j`. -/
theorem layoutBytes_getElem_symm (order : Equiv.Perm (Fin 8)) (v : Port) (j : Fin 8) :
    (layoutBytes order v)[order.symm j] = v.extractLsb' (8 * j.val) 8 := by
  simp [layoutBytes]

/-- Settles O60: bit `i` is bit `i % 8` of byte `i / 8`, which is read where `order` laid it out. -/
theorem hostLayoutLosesNothing : Obligations.HostLayoutLosesNothing := by
  intro order v
  ext i hi
  have hbyte : i / 8 < 8 := by omega
  rw [valueOfBytes, BitVec.getElem_ofFnLE, layoutBytes_getElem_symm, Fin.val_ofNat,
    Nat.mod_eq_of_lt hbyte, BitVec.getLsbD_extractLsb', Nat.div_add_mod]
  simp [Nat.mod_lt, hi]

/-! ### Repeated and reordered transactions -/

/-- A step reads the command and the tables, and neither is in the results it writes. -/
theorem step_idempotent (h : step s = .next t) : step t = .next t := by
  obtain ⟨r, hr, rfl⟩ := step_next h
  simp [step_eq, hr]

/-- A transaction writes over the ports, the results and the mark alike the second time. -/
theorem transact_transact (c : Command) (s : State) : transact c (transact c s) = transact c s := by
  rw [transact_eq c (transact c s), transact_tables, transact_eq c s]
  cases resultOf s.tables (decodeCommand c) <;> rfl

/-- Settles O46. -/
theorem repeatingATransactionChangesNothing : Obligations.RepeatingATransactionChangesNothing :=
  ⟨fun _ _ => step_idempotent, transact_transact⟩

/-- The results of a sequence are those of its commands one by one: no transaction sees another (R21). -/
theorem resultsOf_eq_map (cs : List Command) (s : State) :
    resultsOf cs s = cs.map fun c => resultOf s.tables (decodeCommand c) := by
  induction cs generalizing s with
  | nil => rfl
  | cons c cs ih => rw [resultsOf, ih, transact_result, transact_tables, List.map_cons]

/-- Settles O47: a command is paired with its own result in either order. -/
theorem orderOfTransactionsDoesNotMatter : Obligations.OrderOfTransactionsDoesNotMatter := by
  intro s cs cs' h
  simp only [resultsOf_eq_map, ← List.map_prod_left_eq_zip]
  exact h.map _

end Sys2Proof.Machine
end

section
/-! ## Proofs about commands (30_encoding.md): the decoder's table and the packing, the fields an
operation reads and the widths it returns, then the statements of R46 to R54 assembled from these
facts. -/

namespace Sys2Proof

/-! ### The decoder's table -/

section
variable (a b : Port)

@[simp] theorem decodeCommand_zero : decodeCommand ⟨0#3, a, b⟩ = .expand a := rfl
@[simp] theorem decodeCommand_one : decodeCommand ⟨1#3, a, b⟩ = .substitute a := rfl
@[simp] theorem decodeCommand_two : decodeCommand ⟨2#3, a, b⟩ = .permute a := rfl
@[simp] theorem decodeCommand_three : decodeCommand ⟨3#3, a, b⟩ = .feistelRound a b := rfl
@[simp] theorem decodeCommand_four : decodeCommand ⟨4#3, a, b⟩ = .deriveSubkeys a := rfl
@[simp] theorem decodeCommand_five : decodeCommand ⟨5#3, a, b⟩ = .encryptBlock a b := rfl
@[simp] theorem decodeCommand_six : decodeCommand ⟨6#3, a, b⟩ = .sboxLookup a b := rfl
@[simp] theorem decodeCommand_seven : decodeCommand ⟨7#3, a, b⟩ = .reserved := rfl

end

/-- The eight values of OP (R50). -/
theorem opCode_cases (op : OpCode) :
    op = 0#3 ∨ op = 1#3 ∨ op = 2#3 ∨ op = 3#3 ∨ op = 4#3 ∨ op = 5#3 ∨ op = 6#3 ∨ op = 7#3 := by
  revert op
  decide

/-- The decoder reads each instruction back from its own command (R49, R54). -/
theorem decodeCommand_encodeCommand (i : Instr) : decodeCommand (encodeCommand i) = i :=
  match i with
  | .expand a => Laws.CommandRoundTrip.expand a
  | .substitute a => Laws.CommandRoundTrip.substitute a
  | .permute a => Laws.CommandRoundTrip.permute a
  | .feistelRound a b => Laws.CommandRoundTrip.feistelRound a b
  | .deriveSubkeys a => Laws.CommandRoundTrip.deriveSubkeys a
  | .encryptBlock a b => Laws.CommandRoundTrip.encryptBlock a b
  | .sboxLookup a b => Laws.CommandRoundTrip.sboxLookup a b
  | .reserved => Laws.CommandRoundTrip.reserved

/-- A decoded operation carries the command's A (R51). -/
theorem portA_decodeCommand {c : Command} (h : c.op.toNat < 7) : (decodeCommand c).portA = c.a := by
  obtain ⟨op, a, b⟩ := c
  rcases opCode_cases op with rfl | rfl | rfl | rfl | rfl | rfl | rfl | rfl <;>
    simp_all [Instr.portA]

/-- A decoded two-operand operation carries the command's B (R51). -/
theorem portB_decodeCommand_of_two_operands {c : Command} (h : c.op.toNat ∈ [3, 5, 6]) :
    (decodeCommand c).portB = c.b := by
  obtain ⟨op, a, b⟩ := c
  rcases opCode_cases op with rfl | rfl | rfl | rfl | rfl | rfl | rfl | rfl <;>
    simp_all [Instr.portB]

/-- A decoded one-operand operation carries no B (R54). -/
theorem portB_decodeCommand_of_one_operand {c : Command} (h : c.op.toNat ∈ [0, 1, 2, 4]) :
    (decodeCommand c).portB = 0 := by
  obtain ⟨op, a, b⟩ := c
  rcases opCode_cases op with rfl | rfl | rfl | rfl | rfl | rfl | rfl | rfl <;>
    simp_all [Instr.portB]

/-! ### Packed commands and table words -/

theorem unpack_encode (i : Instr) : Command.unpack (encode i) = encodeCommand i := unpack_pack _

theorem decode_of_wide {n : Nat} (h : 2 ^ 131 ≤ n) : decode n = .error .widerThanACommand :=
  if_neg (Nat.not_lt.mpr h)

/-- What a number that decodes is decoded to. -/
theorem eq_decodeCommand_of_decode {n : Nat} {i : Instr} (h : decode n = .ok i) :
    i = decodeCommand (Command.unpack (BitVec.ofNat 131 n)) := by
  unfold decode at h
  split at h <;> cases h
  rfl

/-- A row's word decodes as the command it stands for. -/
theorem decodeTableWord_eq (nbits w : Nat) :
    decodeTableWord nbits w = some (decodeCommand (commandOfTableWord nbits w)) := by
  rw [decodeTableWord, decode_toNat, unpack_pack]

/-- Settles O3: the packing loses nothing of a command, and the decoder nothing of an instruction. -/
theorem decodeOfEncodeIsTheInstruction : Obligations.DecodeOfEncodeIsTheInstruction := by
  intro i
  rw [decode_toNat, unpack_encode, decodeCommand_encodeCommand]

/-- Settles O4: the fields of a packing are those of its command, and the decoder keeps the ones the
operation has. -/
theorem encodeOfDecodeIsThePackedCommand : Obligations.EncodeOfDecodeIsThePackedCommand := by
  refine ⟨fun _ => decode_of_wide, fun w => ⟨_, decode_toNat w, ?_⟩⟩
  have fields := unpack_encode (decodeCommand (Command.unpack w))
  have hop := congrArg Command.op fields
  have ha := congrArg Command.a fields
  have hb := congrArg Command.b fields
  exact ⟨hop.trans (opcode_decodeCommand _), fun h => ha.trans (portA_decodeCommand h),
    fun h => hb.trans (portB_decodeCommand_of_two_operands h),
    fun h => hb.trans (portB_decodeCommand_of_one_operand h)⟩

/-- Settles O1, one row of the decoder's table for each value of OP. -/
theorem eachOpValueSelectsItsOperation : Obligations.EachOpValueSelectsItsOperation := fun a b =>
  ⟨decodeCommand_zero a b, decodeCommand_one a b, decodeCommand_two a b, decodeCommand_three a b,
    decodeCommand_four a b, decodeCommand_five a b, decodeCommand_six a b, decodeCommand_seven a b⟩

/-- Settles O2: the command of word `w` is the one with OP = `w` and zero operands. -/
theorem tableRowsDecodeToTheirInstructions : Obligations.TableRowsDecodeToTheirInstructions := by
  unfold Obligations.TableRowsDecodeToTheirInstructions
  simp only [decodeTableWord_eq]
  decide

end Sys2Proof

namespace Sys2Proof.Machine

variable {s : State} {T : Tables}

/-! ### The fields an operation reads -/

theorem fitsIn_zext64 {n : Nat} (h : n ≤ 64) (v : BitVec n) : fitsIn n (zext64 v) = true :=
  decide_eq_true (zext64_toNat_lt h v)

/-- An operation's results come from the fields that truncation keeps (R51). -/
theorem resultOf_truncate (T : Tables) (i : Instr) : resultOf T (truncate i) = resultOf T i := by
  cases i <;> simp [resultOf, truncate, tableSelect, field_zext64]

theorem preValidated_truncate (i : Instr) : (truncate i).preValidated = true := by
  cases i <;> simp [truncate, Instr.preValidated, fitsIn_zext64]

/-- Settles O38: an effect is the writing of the results, and truncation keeps the results. -/
theorem truncationChangesNoEffect : Obligations.TruncationChangesNoEffect := fun i s =>
  ⟨by simp only [exec_eq, resultOf_truncate], preValidated_truncate i⟩

/-- Commands with the same truncation have the same results. -/
theorem transact_result_congr {c c' : Command} (s : State)
    (h : truncate (decodeCommand c) = truncate (decodeCommand c')) :
    (transact c s).result = (transact c' s).result := by
  rw [transact_result, transact_result, ← resultOf_truncate, h, resultOf_truncate]

theorem zext64_field_congr {n : Nat} {p q : Port} (h : p.setWidth n = q.setWidth n) :
    zext64 (field n p) = zext64 (field n q) := by
  rw [field_eq_setWidth, field_eq_setWidth, h]

/-- Settles O37: operands that agree on the fields of R51 have the same truncation. -/
theorem ignoredOperandBitsChangeNothing : Obligations.IgnoredOperandBitsChangeNothing :=
  fun s _ _ b _ =>
  ⟨fun h => transact_result_congr s (congrArg Instr.expand (zext64_field_congr h)),
    fun h => transact_result_congr s (congrArg Instr.substitute (zext64_field_congr h)),
    fun h => transact_result_congr s (congrArg Instr.permute (zext64_field_congr h)),
    fun h h' => transact_result_congr s
      (congrArg₂ Instr.feistelRound (zext64_field_congr h) (zext64_field_congr h')),
    fun h => transact_result_congr s (congrArg Instr.deriveSubkeys (zext64_field_congr h)),
    fun h => transact_result_congr s (congrArg (Instr.encryptBlock · b) (zext64_field_congr h)),
    fun h h' => transact_result_congr s
      (congrArg₂ Instr.sboxLookup (zext64_field_congr h) (zext64_field_congr h'))⟩

/-! ### The widths of the results -/

/-- The width of Y0 for each OP (R52); no width for the reserved value. -/
def y0Width (op : OpCode) : Nat :=
  match op.toNat with
  | 0 => 48
  | 1 => 32
  | 2 => 32
  | 3 => 32
  | 4 => 48
  | 5 => 64
  | 6 => 4
  | _ => 0

theorem resultOf_y0_lt {i : Instr} {r : Result} (h : resultOf T i = some r) :
    r.y0.toNat < 2 ^ y0Width i.opcode := by
  cases i <;> cases h
  case encryptBlock a b => exact (encrypt T (field 56 a) b).isLt
  all_goals exact zext64_toNat_lt (by decide) _

theorem resultOf_y1_eq_zero {i : Instr} {r : Result} (h : resultOf T i = some r)
    (hop : i.opcode ≠ 4) : r.y1 = 0 := by
  cases i <;> cases h
  case deriveSubkeys a => exact absurd rfl hop
  all_goals rfl

theorem y0Width_le_48 : ∀ op : OpCode, op ≠ 5 → y0Width op ≤ 48 := by decide

theorem y0Width_le_32 : ∀ op : OpCode, op = 1 ∨ op = 2 ∨ op = 3 → y0Width op ≤ 32 := by decide

theorem y0Width_le_4 : ∀ op : OpCode, op = 6 → y0Width op ≤ 4 := by decide

/-- Settles O39: a step writes the results of the instruction that has its OP, in the width of R52. -/
theorem resultsFitTheirWidths : Obligations.ResultsFitTheirWidths := by
  intro s t r hstep hr
  obtain ⟨r, hresult, rfl⟩ := step_next hstep
  cases hr
  have hop : (decodeCommand s.command).opcode = s.op := opcode_decodeCommand s.command
  have hy0 := resultOf_y0_lt hresult
  have fits {n : Nat} (h : y0Width s.op ≤ n) : r.y0.toNat < 2 ^ n :=
    hy0.trans_le (Nat.pow_le_pow_right (by decide) (hop ▸ h))
  exact ⟨fun h => resultOf_y1_eq_zero hresult (hop ▸ h), resultOf_y1_lt hresult,
    fun h => fits (y0Width_le_48 _ h), fun h => fits (y0Width_le_32 _ h),
    fun h => fits (y0Width_le_4 _ h)⟩

/-! ### What a step does with the decoded instruction -/

theorem step_present (c : Command) (s : State) :
    step (s.present c) = exec (decodeCommand c) (s.present c) := rfl

/-- Settles O5: a number or a word that decodes gives the instruction of the command presented. -/
theorem stepRunsTheDecodedInstruction : Obligations.StepRunsTheDecodedInstruction := by
  refine ⟨fun _ => rfl, fun s n i h => ?_, fun s nbits w i h => ?_⟩
  · rw [eq_decodeCommand_of_decode h, step_present]
  · rw [decodeTableWord_eq] at h
    cases h
    exact step_present _ s

theorem exec_of_resultOf {i : Instr} {r : Result} (h : resultOf s.tables i = some r) :
    exec i s = .next { s with result := some r } := by
  rw [exec_eq, h]
  rfl

/-- The subkeys as fields of the port A: bits 47:0 and bits 55:8 (R51, R85). -/
theorem keySchedule_field (a : Port) :
    keySchedule (field 56 a) = (a.extractLsb' 0 48, a.extractLsb' 8 48) := by
  simp [keySchedule, field]

theorem resultOf_deriveSubkeys (T : Tables) (a : Port) : resultOf T (.deriveSubkeys a) =
    some ⟨(a.extractLsb' 0 48).setWidth 64, (a.extractLsb' 8 48).setWidth 64⟩ := by
  rw [resultOf, keySchedule_field]
  rfl

/-- Settles O6: `exec` writes `resultOf`, whose rows are those of R52. -/
theorem everyOperationReturnsItsResults : Obligations.EveryOperationReturnsItsResults := fun _ a _ =>
  ⟨exec_of_resultOf rfl, exec_of_resultOf rfl, exec_of_resultOf rfl, exec_of_resultOf rfl,
    exec_of_resultOf (resultOf_deriveSubkeys _ a), exec_of_resultOf rfl, exec_of_resultOf rfl⟩

theorem exec_reserved (s : State) : exec .reserved s = .refused .reservedOperation :=
  exec_eq .reserved s

/-- Settles O7: OP = 7 decodes to the reserved instruction, which has no results. -/
theorem reservedOperationIsRefused : Obligations.ReservedOperationIsRefused := fun s a b =>
  ⟨exec_reserved s, (congrArg (exec · _) (decodeCommand_seven a b)).trans (exec_reserved _)⟩

end Sys2Proof.Machine
end

section
/-! ## Proofs about the datapath (40_datapath.md): Expand and Permute as functions that copy bits,
Substitute nibble by nibble, then the statements of R56 to R74 and the four operations' transactions
assembled from these facts. -/

namespace Sys2Proof.Machine

/-! ### Functions that copy bits

Expand and Permute both fill each output bit with one input bit. What R58, R59, R71 and R74 say of
them follows from which bit that is. -/

/-- Output bit `i` of `f` is input bit `source i`. -/
def CopiesBits {n m : Nat} (f : BitVec n → BitVec m) (source : Fin m → Fin n) : Prop :=
  ∀ (x : BitVec n) (i : Fin m), (f x).getLsbD i = x.getLsbD (source i)

/-- The number of set bits as a sum over the bits. -/
theorem toNat_cpop_eq_sum {n : Nat} (x : BitVec n) :
    x.cpop.toNat = ∑ i : Fin n, (x.getLsbD i).toNat := by
  have partialSum (k : Nat) : x.cpopNatRec k 0 = ∑ i ∈ Finset.range k, (x.getLsbD i).toNat := by
    induction k with
    | zero => rfl
    | succ k ih =>
      rw [BitVec.cpopNatRec_succ, BitVec.cpopNatRec_eq, ih, Finset.sum_range_succ, zero_add]
  rw [BitVec.toNat_cpop, partialSum, Finset.sum_range]

section
variable {n m : Nat} {f : BitVec n → BitVec m} {source : Fin m → Fin n}

theorem CopiesBits.getElem (h : CopiesBits f source) (x : BitVec n) {i : Nat} (hi : i < m) :
    (f x)[i] = x.getLsbD (source ⟨i, hi⟩) := by
  rw [← BitVec.getLsbD_eq_getElem]
  exact h x ⟨i, hi⟩

theorem CopiesBits.map_xor (h : CopiesBits f source) (x y : BitVec n) :
    f (x ^^^ y) = f x ^^^ f y := by
  ext i hi
  simp only [BitVec.getElem_xor, h.getElem, BitVec.getLsbD_xor]

theorem CopiesBits.map_zero (h : CopiesBits f source) : f 0#n = 0#m := by
  ext i hi
  simp only [h.getElem, BitVec.getLsbD_zero, BitVec.getElem_zero]

theorem CopiesBits.map_allOnes (h : CopiesBits f source) :
    f (BitVec.allOnes n) = BitVec.allOnes m := by
  ext i hi
  simp only [h.getElem, BitVec.getLsbD_allOnes, BitVec.getElem_allOnes, Fin.is_lt, decide_true]

/-- Where every input bit is copied, the output determines the input. -/
theorem CopiesBits.injective (h : CopiesBits f source) (hs : Function.Surjective source) :
    Function.Injective f := by
  intro x y hxy
  apply BitVec.eq_of_getLsbD_eq
  intro k hk
  obtain ⟨i, hi⟩ := hs ⟨k, hk⟩
  have hbit := (h x i).symm.trans (hxy ▸ h y i)
  rwa [hi] at hbit

/-- The bits a single set bit expands to are its copies. -/
theorem CopiesBits.toNat_cpop_twoPow (h : CopiesBits f source) (k : Fin n) :
    (f (BitVec.twoPow n k)).cpop.toNat = (Finset.univ.filter fun i => source i = k).card := by
  have hbit (i : Fin m) :
      ((f (BitVec.twoPow n k)).getLsbD i).toNat = if source i = k then 1 else 0 := by
    rw [h, BitVec.getLsbD_twoPow]
    simp [Bool.toNat, Fin.ext_iff, eq_comm]
  rw [toNat_cpop_eq_sum, Finset.card_filter]
  exact Finset.sum_congr rfl fun i _ => hbit i

/-- The bit that output bit `i` copies, set alone, sets bit `i` alone. -/
theorem CopiesBits.map_twoPow_source (h : CopiesBits f source) (hs : Function.Injective source)
    (i : Fin m) : f (BitVec.twoPow n (source i)) = BitVec.twoPow m i := by
  ext j hj
  have hsource : (source i).val = source ⟨j, hj⟩ ↔ j = i := by
    rw [← Fin.ext_iff, hs.eq_iff, Fin.ext_iff, eq_comm]
  rw [h.getElem, BitVec.getLsbD_twoPow, BitVec.getElem_twoPow]
  simp [hsource]

end

/-- Where every bit is copied exactly once, the number of set bits stays. -/
theorem CopiesBits.cpop_eq {n : Nat} {f : BitVec n → BitVec n} {source : Fin n → Fin n}
    (h : CopiesBits f source) (hs : Function.Bijective source) (x : BitVec n) :
    (f x).cpop = x.cpop := by
  apply BitVec.eq_of_toNat_eq
  simp only [toNat_cpop_eq_sum, h x]
  exact hs.sum_comp fun i => (x.getLsbD i).toNat

/-! ### Expand -/

/-- The bit of r that bit `i` of E copies (R56). -/
def expandSource (i : Fin 48) : Fin 32 :=
  ⟨(4 * (i.val / 6) + i.val % 6 + 31) % 32, Nat.mod_lt _ (by decide)⟩

theorem expand_copiesBits : CopiesBits expand expandSource := expand_getLsbD

/-- The same for a bit number that is not yet an index. -/
theorem expand_getLsbD_of_source (r : Half) {i k : Nat}
    (h : ∃ hi : i < 48, expandSource ⟨i, hi⟩ = k) : (expand r).getLsbD i = r.getLsbD k := by
  obtain ⟨hi, rfl⟩ := h
  exact expand_copiesBits r ⟨i, hi⟩

/-- Settles O11: the sources of bits 47 and 0. -/
theorem expandWrapsTheOuterBits : Obligations.ExpandWrapsTheOuterBits := fun r =>
  ⟨expand_getLsbD_of_source r ⟨by decide, rfl⟩, expand_getLsbD_of_source r ⟨by decide, rfl⟩⟩

/-- A field of E is a field of r where its bits copy bits that stand in a row. -/
theorem extractLsb'_expand (r : Half) {start start' len : Nat}
    (h : ∀ i < len, ∃ hi : start + i < 48, expandSource ⟨start + i, hi⟩ = start' + i) :
    (expand r).extractLsb' start len = r.extractLsb' start' len := by
  ext i hi
  rw [BitVec.getElem_extractLsb', BitVec.getElem_extractLsb', expand_getLsbD_of_source r (h i hi)]

/-- E as its ten neighbouring fields: the eight groups, the outer two of them in two parts. -/
theorem append_fields (x : Wide) :
    x.extractLsb' 47 1 ++ x.extractLsb' 42 5 ++ x.extractLsb' 36 6 ++ x.extractLsb' 30 6 ++
      x.extractLsb' 24 6 ++ x.extractLsb' 18 6 ++ x.extractLsb' 12 6 ++ x.extractLsb' 6 6 ++
      x.extractLsb' 1 5 ++ x.extractLsb' 0 1 = x := by
  simp (disch := decide) only [BitVec.extractLsb'_append_extractLsb'_eq_extractLsb', -Nat.reduceAdd]
  exact BitVec.extractLsb'_eq_self

/-- Settles O9: the ten fields of E, each a field of r. -/
theorem expandIsTheBitMap : Obligations.ExpandIsTheBitMap := by
  intro r
  have fields := append_fields (expand r)
  rw [extractLsb'_expand r (start := 47) (start' := 0) (by decide),
    extractLsb'_expand r (start := 42) (start' := 27) (by decide),
    extractLsb'_expand r (start := 36) (start' := 23) (by decide),
    extractLsb'_expand r (start := 30) (start' := 19) (by decide),
    extractLsb'_expand r (start := 24) (start' := 15) (by decide),
    extractLsb'_expand r (start := 18) (start' := 11) (by decide),
    extractLsb'_expand r (start := 12) (start' := 7) (by decide),
    extractLsb'_expand r (start := 6) (start' := 3) (by decide),
    extractLsb'_expand r (start := 1) (start' := 0) (by decide),
    extractLsb'_expand r (start := 0) (start' := 31) (by decide)] at fields
  exact fields.symm

/-- The places of the list of R58 copy the bit it names. -/
theorem expandPairs_source : ∀ t ∈ expandPairs,
    (∃ h : t.2.1 < 48, expandSource ⟨t.2.1, h⟩ = t.1) ∧
      ∃ h : t.2.2 < 48, expandSource ⟨t.2.2, h⟩ = t.1 := by
  decide

/-- How often Expand copies each bit of r (R58). -/
theorem card_expandSource_eq : ∀ k : Fin 32, (Finset.univ.filter fun i => expandSource i = k).card =
    if k.val ∈ expandPairs.map (·.1) then 2 else 1 := by
  decide +kernel

theorem expandSource_surjective : Function.Surjective expandSource := by
  unfold Function.Surjective
  decide

/-- Settles O10: every bit of r is copied, the listed ones twice. -/
theorem expandDuplicatesSixteenBits : Obligations.ExpandDuplicatesSixteenBits := by
  refine ⟨fun r t ht => ?_, fun i => ?_, expand_copiesBits.injective expandSource_surjective⟩
  · obtain ⟨h₁, h₂⟩ := expandPairs_source t ht
    exact ⟨expand_getLsbD_of_source r h₁, expand_getLsbD_of_source r h₂⟩
  · apply BitVec.eq_of_toNat_eq
    rw [expand_copiesBits.toNat_cpop_twoPow, card_expandSource_eq]
    split <;> rfl

theorem expand_zero : expand 0 = 0 := expand_copiesBits.map_zero

theorem expand_ones : expand 0xFFFFFFFF = 0xFFFFFFFFFFFF := expand_copiesBits.map_allOnes

/-- Settles O12: Expand copies bits. -/
theorem expandIsLinear : Obligations.ExpandIsLinear :=
  ⟨expand_copiesBits.map_xor, expand_zero, expand_ones⟩

/-! ### Substitute -/

/-- Nibble `k + 1` of the Substitution, from its lowest bit up. -/
theorem extractLsb'_substitute_eq_lookup (T : Tables) (x : Wide) (k : Fin 8) :
    (substitute T x).extractLsb' (28 - 4 * k.val) 4 = lookup T x k := by
  have hstart : 28 - 4 * k.val = 32 - 4 * (k.val + 1) := by omega
  rw [hstart, extractLsb'_substitute]

/-- Settles O14: the nibble is the lookup, which reads the entry. -/
theorem substituteReadsTableKAtGroupK : Obligations.SubstituteReadsTableKAtGroupK := fun T x k =>
  (extractLsb'_substitute_eq_lookup T x k).trans (lookup_eq T x k)

/-- Settles O15: the entry read is a function of the table and the group. -/
theorem substituteLookupsAreIndependent : Obligations.SubstituteLookupsAreIndependent := by
  intro T T' x x' k hT hx
  simp only [substituteReadsTableKAtGroupK T, substituteReadsTableKAtGroupK T', hT, hx]

/-- Every group of 0 is 0, and entry 0 of each table is pinned (R16). -/
theorem lookup_zero {T : Tables} (h : T.SboxPinned) (k : Fin 8) : lookup T 0 k = pinnedSbox[k] := by
  have hgroup : group 0 k = 0 := BitVec.extractLsb'_zero
  rw [lookup, hgroup, readSbox_zero h]

theorem substitute_zero_of_sboxPinned {T : Tables} (h : T.SboxPinned) :
    substitute T 0 = 0x3DEA72C4 := by
  simp only [substitute, lookup_zero h]
  rfl

/-! ### Permute -/

variable {T : Tables}

theorem permute_copiesBits (T : Tables) : CopiesBits (permute T) (permSource T) := permute_getLsbD T

/-- Output bit `31 - j` is the bit that entry `j` names (R70). -/
theorem permute_getLsbD_sub (T : Tables) (x : Half) (j : Fin 32) :
    (permute T x).getLsbD (31 - j.val) = x.getLsbD (32 - T.readPerm j) := by
  have hrev : 31 - j.val = j.rev.val := by
    rw [Fin.val_rev]
    omega
  rw [hrev, permute_getLsbD]
  simp only [permSource, Fin.rev_rev, Fin.val_rev, Tables.readPerm]

/-- Settles O19, the entry held being `PERM(j) - 1`. -/
theorem permuteMovesEachBit : Obligations.PermuteMovesEachBit := permute_getLsbD_sub

/-- A bit of an OR of many values is set where it is set in one of them. -/
theorem getLsbD_foldl_or {α : Type} {n : Nat} (g : α → BitVec n) (l : List α) (out : BitVec n)
    (b : Nat) : (l.foldl (fun out i => out ||| g i) out).getLsbD b =
      (out.getLsbD b || l.any fun i => (g i).getLsbD b) := by
  induction l generalizing out with
  | nil => simp
  | cons i l ih => rw [List.foldl_cons, ih, BitVec.getLsbD_or, List.any_cons, Bool.or_assoc]

/-- One turn of the source's loop sets bit `31 - i` alone, to bit `p` of the input (R68). -/
theorem getLsbD_loopTerm (x : Half) (p : Nat) (i j : Fin 32) :
    (((x >>> p) &&& 1) <<< (31 - i.val)).getLsbD (31 - j.val) = (decide (i = j) && x.getLsbD p) := by
  by_cases hij : i = j
  · have : 31 - j.val < 32 := by omega
    simp [hij, this]
  · have hplace : 31 - j.val < 31 - i.val ∨ 31 - j.val - (31 - i.val) ≠ 0 := by omega
    rcases hplace with h | h <;> simp [hij, h]

/-- The source's loop, bit by bit: the turn for entry `j` alone reaches bit `31 - j`. -/
theorem permute_eq_loop (T : Tables) (x : Half) : permute T x = (List.finRange 32).foldl
    (fun out i => out ||| (((x >>> (32 - T.readPerm i)) &&& 1) <<< (31 - i.val))) 0 := by
  apply BitVec.eq_of_getLsbD_eq
  intro b hb
  obtain ⟨j, rfl⟩ : ∃ j : Fin 32, b = 31 - j.val :=
    ⟨⟨31 - b, by omega⟩, (Nat.sub_sub_self (Nat.le_of_lt_succ hb)).symm⟩
  simp only [permute_getLsbD_sub, getLsbD_foldl_or, getLsbD_loopTerm]
  rw [Bool.eq_iff_iff]
  simp

/-- Settles O20: bit `j` from the most significant end is bit `31 - j`, and the loop sets each bit once. -/
theorem permuteIsTheSourcesLoop : Obligations.PermuteIsTheSourcesLoop := by
  refine fun T x => ⟨fun j => ?_, permute_eq_loop T x⟩
  rw [BitVec.getMsbD_eq_getLsbD, decide_eq_true j.isLt, Bool.true_and]
  exact permute_getLsbD_sub T x j

/-- Distinct bits set alone give distinct values. -/
theorem twoPow_injective {n : Nat} : Function.Injective fun i : Fin n => BitVec.twoPow n i.val := by
  intro i j h
  have hbit : (BitVec.twoPow n i.val)[i.val] = (BitVec.twoPow n j.val)[i.val] :=
    congrArg (·[i.val]) h
  simpa [BitVec.getElem_twoPow, Fin.ext_iff] using hbit

theorem permute_injective (h : T.PermIsPermutation) : Function.Injective (permute T) :=
  (permute_copiesBits T).injective (permSource_bijective h).surjective

/-- A single bit goes to one place (R71). -/
theorem cpop_permute_twoPow (h : T.PermIsPermutation) (k : Fin 32) :
    (permute T (BitVec.twoPow 32 k.val)).cpop = 1 := by
  obtain ⟨i, rfl⟩ := (permSource_bijective h).surjective k
  apply BitVec.eq_of_toNat_eq
  rw [(permute_copiesBits T).toNat_cpop_twoPow]
  simp [(permSource_injective h).eq_iff, Finset.filter_eq']

/-- Settles O21: the source of each output bit is a permutation of the bits. -/
theorem permuteIsABijection : Obligations.PermuteIsABijection := by
  intro T h
  have injective := permute_injective h
  exact ⟨Finite.injective_iff_bijective.mp injective, cpop_permute_twoPow h,
    fun _ _ hij => twoPow_injective (injective hij)⟩

theorem permute_zero (T : Tables) : permute T 0 = 0 := (permute_copiesBits T).map_zero

theorem permute_ones (T : Tables) : permute T 0xFFFFFFFF = 0xFFFFFFFF :=
  (permute_copiesBits T).map_allOnes

/-- Settles O23: Permute copies bits, each of them once. -/
theorem permuteIsLinearAndKeepsWeight : Obligations.PermuteIsLinearAndKeepsWeight := fun T h =>
  ⟨(permute_copiesBits T).map_xor, permute_zero T, permute_ones T,
    (permute_copiesBits T).cpop_eq (permSource_bijective h)⟩

/-- Output bit 31 copies input bit 16 (R72), and no other does. -/
theorem permute_bit_16 (h : T.PermIsPermutation) (hp : T.PermPinned) :
    permute T 0x00010000 = 0x80000000 := by
  have := (permute_copiesBits T).map_twoPow_source (permSource_injective h) 31
  rwa [permSource_pinned hp] at this

/-- Settles O22: entry 0 names input bit 16 as the source of output bit 31. -/
theorem permutePinnedBit : Obligations.PermutePinnedBit := fun T h hp =>
  ⟨permute_bit_16 h hp, fun x => by
    have := permute_getLsbD T x 31
    rwa [permSource_pinned hp] at this⟩

/-! ### The transactions -/

section
variable (s : State) (a b : Port)

/-- A command whose instruction has results returns them (R48). -/
theorem returns_of_resultOf {c : Command} {y0 y1 : Port}
    (h : resultOf s.tables (decodeCommand c) = some ⟨y0, y1⟩) : Returns s c y0 y1 := by
  rw [Returns, step_present]
  exact exec_of_resultOf h

theorem resultOf_expand (T : Tables) :
    resultOf T (.expand a) = some ⟨(expand (a.setWidth 32)).setWidth 64, 0⟩ := by
  rw [resultOf, field_eq_setWidth, zext64]

theorem resultOf_substitute (T : Tables) :
    resultOf T (.substitute a) = some ⟨(substitute T (a.setWidth 48)).setWidth 64, 0⟩ := by
  rw [resultOf, field_eq_setWidth, zext64]

theorem resultOf_permute (T : Tables) :
    resultOf T (.permute a) = some ⟨(permute T (a.setWidth 32)).setWidth 64, 0⟩ := by
  rw [resultOf, field_eq_setWidth, zext64]

theorem resultOf_sboxLookup (T : Tables) : resultOf T (.sboxLookup a b) =
    some ⟨(T.sbox[(a.setWidth 3).toFin][(b.setWidth 6).toFin]).setWidth 64, 0⟩ := by
  simp only [← field_eq_setWidth]
  rfl

/-- EXPAND of a port whose low half is `r` (R60). -/
theorem returns_expand {r : Half} {y : Port} (ha : a.setWidth 32 = r)
    (hy : (expand r).setWidth 64 = y) : Returns s ⟨0b000, a, b⟩ y 0 := by
  subst ha hy
  exact returns_of_resultOf s (resultOf_expand a s.tables)

/-- SUBSTITUTE of a port whose low 48 bits are `x` (R65). -/
theorem returns_substitute {x : Wide} {y : Port} (ha : a.setWidth 48 = x)
    (hy : (substitute s.tables x).setWidth 64 = y) : Returns s ⟨0b001, a, b⟩ y 0 := by
  subst ha hy
  exact returns_of_resultOf s (resultOf_substitute a s.tables)

/-- PERMUTE of a port whose low half is `x` (R73). -/
theorem returns_permute {x : Half} {y : Port} (ha : a.setWidth 32 = x)
    (hy : (permute s.tables x).setWidth 64 = y) : Returns s ⟨0b010, a, b⟩ y 0 := by
  subst ha hy
  exact returns_of_resultOf s (resultOf_permute a s.tables)

/-- SBOX_LOOKUP of ports whose low fields are `t` and `idx` (R66). -/
theorem returns_sboxLookup {t : BitVec 3} {idx : Group} {y : Port} (ha : a.setWidth 3 = t)
    (hb : b.setWidth 6 = idx) (hy : (s.tables.sbox[t.toFin][idx.toFin]).setWidth 64 = y) :
    Returns s ⟨0b110, a, b⟩ y 0 := by
  subst ha hb hy
  exact returns_of_resultOf s (resultOf_sboxLookup a b s.tables)

end

/-- The bits above a zero-extended value are zero (R12). -/
theorem extractLsb'_setWidth_above {n m : Nat} (v : BitVec n) (len : Nat) :
    (v.setWidth m).extractLsb' n len = 0#len := by
  ext i hi
  simp

/-- Settles O13: the bits of r copied, and A[63:32] and B not read. -/
theorem expandTransaction : Obligations.ExpandTransaction := by
  intro s a b
  have hone : (expand 1).setWidth 64 = (0x0000800000000002 : Port) := by decide +kernel
  exact ⟨exec_of_resultOf (resultOf_expand a s.tables), returns_expand s a b rfl rfl,
    returns_expand s _ b rfl (congrArg _ expand_zero),
    returns_expand s _ b rfl (congrArg _ expand_ones),
    fun _ _ => returns_expand s _ b BitVec.setWidth_append_eq_right rfl,
    returns_expand s _ b rfl hone, returns_expand s _ b rfl hone,
    extractLsb'_setWidth_above _ _⟩

/-- Settles O16: A[63:48] and B not read, and the Substitution of 0 pinned. -/
theorem substituteTransaction : Obligations.SubstituteTransaction := by
  intro s a b h
  have hzero := congrArg (BitVec.setWidth 64) (substitute_zero_of_sboxPinned h.sboxPinned)
  exact ⟨exec_of_resultOf (resultOf_substitute a s.tables), returns_substitute s a b rfl rfl,
    returns_substitute s _ b rfl hzero,
    fun _ _ => returns_substitute s _ b BitVec.setWidth_append_eq_right rfl,
    returns_substitute s _ b rfl hzero, extractLsb'_setWidth_above _ _⟩

/-- Settles O17: A[63:3] and B[63:6] not read, and entry 0 of table 1 pinned. -/
theorem sboxLookupTransaction : Obligations.SboxLookupTransaction := by
  intro s a b h
  have hentry := congrArg (BitVec.setWidth 64) (readSbox_zero h.sboxPinned 0)
  exact ⟨exec_of_resultOf (resultOf_sboxLookup a b s.tables), returns_sboxLookup s a b rfl rfl rfl,
    fun _ _ _ _ => returns_sboxLookup s _ _ BitVec.setWidth_append_eq_right
      BitVec.setWidth_append_eq_right rfl,
    returns_sboxLookup s _ _ rfl rfl hentry, returns_sboxLookup s _ _ rfl rfl hentry,
    returns_sboxLookup s _ _ rfl rfl hentry, extractLsb'_setWidth_above _ _⟩

/-- Settles O24: A[63:32] and B not read, the extremes fixed and the pinned bit moved. -/
theorem permuteTransaction : Obligations.PermuteTransaction := by
  intro s a b h
  have hpinned := congrArg (BitVec.setWidth 64) (permute_bit_16 h.permIsPermutation h.permPinned)
  exact ⟨exec_of_resultOf (resultOf_permute a s.tables), returns_permute s a b rfl rfl,
    returns_permute s _ b rfl (congrArg _ (permute_zero s.tables)),
    returns_permute s _ b rfl (congrArg _ (permute_ones s.tables)),
    fun _ _ => returns_permute s _ b BitVec.setWidth_append_eq_right rfl,
    returns_permute s _ b rfl hpinned, returns_permute s _ b rfl hpinned,
    extractLsb'_setWidth_above _ _⟩

/-- Table select `k` names table number `k + 1` (R66). -/
theorem tableSelect_ofNat (k : Fin 8) : tableSelect (BitVec.ofNat 64 k.val) = k := by
  revert k
  decide

/-- Settles O18: both read table `k + 1` at group `k + 1`. -/
theorem substituteAgreesWithSboxLookup : Obligations.SubstituteAgreesWithSboxLookup := by
  intro s x k
  refine ⟨zext64 (substitute s.tables x), zext64 (lookup s.tables x k), ?_, ?_, ?_⟩
  · exact exec_of_resultOf (by rw [resultOf, ← zext64, field_zext64 (by decide)])
  · exact exec_of_resultOf (by
      rw [resultOf, tableSelect_ofNat, ← zext64, field_zext64 (by decide)]
      rfl)
  · have hend : 28 - 4 * k.val + 4 ≤ 64 := by omega
    rw [zext64, zext64, BitVec.extractLsb'_setWidth_of_le hend, extractLsb'_substitute_eq_lookup]

end Sys2Proof.Machine
end

section
/-! ## Proofs about the round function and the key schedule (41_round_keyschedule.md): masks as fields,
then the statements of R75 to R88 assembled from these facts. -/

namespace Sys2Proof.Machine

/-! ### Fields as the source's masks and shifts -/

/-- A zero-extended field is the shifted value under a mask of as many ones (R83, R84). -/
theorem setWidth_extractLsb'_eq_mask {w : Nat} (x : BitVec w) (start len : Nat) :
    (x.extractLsb' start len).setWidth w = (x >>> start) &&& (BitVec.allOnes len).setWidth w := by
  ext i hi
  simp [Bool.and_comm]

/-- The lowest field needs no shift. -/
theorem setWidth_extractLsb'_zero_eq_mask {w : Nat} (x : BitVec w) (len : Nat) :
    (x.extractLsb' 0 len).setWidth w = x &&& (BitVec.allOnes len).setWidth w := by
  rw [setWidth_extractLsb'_eq_mask, BitVec.ushiftRight_zero]

/-- A field of a field is a field of the whole. -/
theorem extractLsb'_extractLsb'_eq {w : Nat} (x : BitVec w) {start len start' len' : Nat}
    (h : start' + len' ≤ len) :
    (x.extractLsb' start len).extractLsb' start' len' = x.extractLsb' (start + start') len' := by
  ext i hi
  have hbit : start' + i < len := by omega
  simp [hbit, Nat.add_assoc]

/-- The truncation of a port takes a zero-extended value back (R52). -/
theorem setWidth_zext64 {n : Nat} (h : n ≤ 64) (v : BitVec n) : (zext64 v).setWidth n = v :=
  (field_eq_setWidth n _).symm.trans (field_zext64 h v)

/-! ### The round function -/

section
variable (T : Tables) (r : Half) (k : Wide)

/-- The whitening reads the low 32 bits of the subkey (R76). -/
theorem roundOutput_eq :
    roundOutput T r k = permute T (substitute T (expand r ^^^ k)) ^^^ k.setWidth 32 := by
  rw [roundOutput, ← BitVec.setWidth_eq_extractLsb' (by decide)]

variable {T r k}

/-- The half-block and the subkey act through the first XOR and the whitening alone (R81). -/
theorem roundOutput_congr {r' : Half} {k' : Wide} (hx : expand r ^^^ k = expand r' ^^^ k')
    (hk : k.setWidth 32 = k'.setWidth 32) : roundOutput T r k = roundOutput T r' k' := by
  rw [roundOutput_eq, roundOutput_eq, hx, hk]

/-- Where the first XOR gives 0, only pinned entries of the substitution tables are read (R80). -/
theorem roundOutput_of_xor_eq_zero (h : T.SboxPinned) (hx : expand r ^^^ k = 0) :
    roundOutput T r k = permute T 0x3DEA72C4 ^^^ k.extractLsb' 0 32 := by
  rw [roundOutput, hx, substitute_zero_of_sboxPinned h]

theorem roundOutput_zero (h : T.SboxPinned) : roundOutput T 0 0 = permute T 0x3DEA72C4 :=
  (roundOutput_of_xor_eq_zero h (BitVec.xor_eq_zero_iff.mpr expand_zero)).trans BitVec.xor_zero

theorem roundOutput_ones (h : T.SboxPinned) :
    roundOutput T 0xFFFFFFFF 0xFFFFFFFFFFFF = permute T 0x3DEA72C4 ^^^ 0xFFFFFFFF :=
  roundOutput_of_xor_eq_zero h (BitVec.xor_eq_zero_iff.mpr expand_ones)

end

/-- Settles O25: the whitening, zero-extended, is the masked subkey. -/
theorem roundOutputIsTheSourcesFormula : Obligations.RoundOutputIsTheSourcesFormula := by
  intro T r k
  have hmask : (k.extractLsb' 0 32).setWidth 48 = k &&& 0xFFFFFFFF :=
    setWidth_extractLsb'_zero_eq_mask k 32
  rw [roundOutput, BitVec.setWidth_xor, hmask]

/-- Settles O26: a value XORed with itself is 0, and Expand fixes the extremes. -/
theorem roundOutputAtItsOwnExpansion : Obligations.RoundOutputAtItsOwnExpansion := by
  intro T h
  have hself (r : Half) : expand r ^^^ expand r = 0 := BitVec.xor_self
  have hsubstitute (r : Half) : substitute T (expand r ^^^ expand r) = 0x3DEA72C4 := by
    rw [hself, substitute_zero_of_sboxPinned h.sboxPinned]
  exact ⟨fun r => ⟨hsubstitute r, roundOutput_of_xor_eq_zero h.sboxPinned (hself r)⟩,
    fun _ _ => roundOutput_of_xor_eq_zero h.sboxPinned, roundOutput_zero h.sboxPinned,
    roundOutput_ones h.sboxPinned⟩

/-! ### FEISTEL_ROUND -/

section
variable (s : State) (a b : Port)

theorem resultOf_feistelRound (T : Tables) : resultOf T (.feistelRound a b) =
    some ⟨(roundOutput T (a.setWidth 32) (b.setWidth 48)).setWidth 64, 0⟩ := by
  simp only [resultOf, field_eq_setWidth, zext64]

/-- The same with the fields of the ports written out: the whitening is B[31:0] (R81). -/
theorem resultOf_feistelRound_ports (T : Tables) : resultOf T (.feistelRound a b) =
    some ⟨(permute T (substitute T (expand (a.setWidth 32) ^^^ b.setWidth 48)) ^^^
      b.setWidth 32).setWidth 64, 0⟩ := by
  rw [resultOf_feistelRound, roundOutput_eq, BitVec.setWidth_setWidth_of_le b (by decide)]

/-- FEISTEL_ROUND of ports whose low fields are `r` and `k` (R81). -/
theorem returns_feistelRound {r : Half} {k : Wide} {y : Port} (ha : a.setWidth 32 = r)
    (hb : b.setWidth 48 = k) (hy : (roundOutput s.tables r k).setWidth 64 = y) :
    Returns s ⟨0b011, a, b⟩ y 0 := by
  subst ha hb hy
  exact returns_of_resultOf s (resultOf_feistelRound a b s.tables)

end

/-- Settles O27: A[63:32] and B[63:48] not read, and R80 for the subkey that is the expansion. -/
theorem feistelRoundTransaction : Obligations.FeistelRoundTransaction := by
  intro s a b h
  have hown (r : Half) : roundOutput s.tables r (expand r) =
      permute s.tables 0x3DEA72C4 ^^^ (expand r).setWidth 32 := by
    rw [BitVec.setWidth_eq_extractLsb' (by decide)]
    exact roundOutput_of_xor_eq_zero h.sboxPinned BitVec.xor_self
  exact ⟨exec_of_resultOf (resultOf_feistelRound_ports a b s.tables),
    returns_feistelRound s a b rfl rfl rfl,
    fun r => returns_feistelRound s _ _ (setWidth_zext64 (by decide) r)
      (setWidth_zext64 (by decide) (expand r)) (congrArg _ (hown r)),
    fun _ _ _ _ => returns_feistelRound s _ _ BitVec.setWidth_append_eq_right
      BitVec.setWidth_append_eq_right rfl,
    fun _ _ _ _ => roundOutput_congr,
    returns_feistelRound s _ _ rfl rfl (congrArg _ (roundOutput_zero h.sboxPinned)),
    extractLsb'_setWidth_above _ _⟩

/-! ### The key schedule -/

/-- Settles O28: each subkey is a field of the key. -/
theorem keyScheduleIsMaskAndShift : Obligations.KeyScheduleIsMaskAndShift := fun k =>
  ⟨setWidth_extractLsb'_zero_eq_mask k 48, setWidth_extractLsb'_eq_mask k 8 48, rfl⟩

/-- A field of K1 stands at the same place in the key (R85). -/
theorem extractLsb'_keySchedule_fst (k : MasterKey) {start len : Nat} (h : start + len ≤ 48) :
    (keySchedule k).1.extractLsb' start len = k.extractLsb' start len :=
  BitVec.extractLsb'_extractLsb'_of_le h

/-- A field of K2 stands 8 bits higher in the key (R85). -/
theorem extractLsb'_keySchedule_snd (k : MasterKey) {start len : Nat} (h : start + len ≤ 48) :
    (keySchedule k).2.extractLsb' start len = k.extractLsb' (8 + start) len :=
  extractLsb'_extractLsb'_eq k h

/-- Settles O29: the fields of a subkey are fields of the key, and no other bit of the key is in it. -/
theorem subkeysShareFortyBits : Obligations.SubkeysShareFortyBits := by
  intro k k'
  have hshared : (keySchedule k).2.extractLsb' 0 40 = k.extractLsb' 8 40 :=
    extractLsb'_keySchedule_snd k (by decide)
  exact ⟨(extractLsb'_keySchedule_fst k (by decide)).trans hshared.symm, hshared,
    extractLsb'_keySchedule_fst k (by decide), extractLsb'_keySchedule_snd k (by decide), id, id⟩

/-! ### DERIVE_SUBKEYS -/

section
variable (s : State) (a b : Port)

/-- DERIVE_SUBKEYS of a port whose fields 47:0 and 55:8, zero-extended, are `y0` and `y1` (R88). -/
theorem returns_deriveSubkeys {y0 y1 : Port} (h0 : (a.extractLsb' 0 48).setWidth 64 = y0)
    (h1 : (a.extractLsb' 8 48).setWidth 64 = y1) : Returns s ⟨0b100, a, b⟩ y0 y1 := by
  subst h0 h1
  exact returns_of_resultOf s (resultOf_deriveSubkeys s.tables a)

/-- The results of DERIVE_SUBKEYS as the source's mask and shift of the port (R83, R84). -/
theorem resultOf_deriveSubkeys_mask (T : Tables) : resultOf T (.deriveSubkeys a) =
    some ⟨a &&& 0xFFFFFFFFFFFF, (a >>> 8) &&& 0xFFFFFFFFFFFF⟩ := by
  rw [resultOf_deriveSubkeys, setWidth_extractLsb'_zero_eq_mask, setWidth_extractLsb'_eq_mask]
  rfl

/-- The subkeys of the key A[55:0] are fields of A (R88). -/
theorem keySchedule_setWidth :
    keySchedule (a.setWidth 56) = (a.extractLsb' 0 48, a.extractLsb' 8 48) := by
  rw [← field_eq_setWidth, keySchedule_field]

end

/-- Settles O30: the subkeys are A[47:0] and A[55:8], so A[63:56] and B are not read. -/
theorem deriveSubkeysTransaction : Obligations.DeriveSubkeysTransaction := by
  intro s a b
  have hk := keySchedule_setWidth a
  exact ⟨exec_of_resultOf (resultOf_deriveSubkeys_mask a s.tables),
    returns_deriveSubkeys s a b (hk ▸ rfl) (hk ▸ rfl), returns_deriveSubkeys s a b rfl rfl,
    returns_deriveSubkeys s _ b rfl rfl, returns_deriveSubkeys s _ b rfl rfl,
    returns_deriveSubkeys s _ b rfl rfl, returns_deriveSubkeys s _ b rfl rfl,
    returns_deriveSubkeys s _ b rfl rfl, returns_deriveSubkeys s _ b rfl rfl,
    extractLsb'_setWidth_above _ _, extractLsb'_setWidth_above _ _⟩

end Sys2Proof.Machine
end

section
/-! ## Proofs about the driver (42_driver.md): Encrypt by its two halves, each round undone by the half
it keeps, then the statements of R90 to R100 assembled from these facts. -/

namespace Sys2Proof.Machine

/-! ### Encrypt by its halves -/

/-- Blocks with the same halves are the same (R32). -/
theorem eq_of_halves {p q : Port} (hhigh : highHalf p = highHalf q) (hlow : lowHalf p = lowHalf q) :
    p = q := by
  rw [← joinHalves_highHalf_lowHalf p, hhigh, hlow, joinHalves_highHalf_lowHalf]

section
variable (T : Tables) (k : MasterKey) (p : Port)

/-- The high half as the source takes it, by a shift (R90). -/
theorem setWidth_shiftRight_eq_highHalf : (p >>> 32).setWidth 32 = highHalf p := by
  ext i hi
  simp [highHalf]

/-- The low half as the source takes it (R90). -/
theorem setWidth_eq_lowHalf : p.setWidth 32 = lowHalf p := (field_eq_setWidth 32 p).symm

/-- The second round, undone by the half it keeps (R93). -/
theorem lowHalf_eq_of_encrypt : lowHalf p =
    lowHalf (encrypt T k p) ^^^ roundOutput T (highHalf (encrypt T k p)) (keySchedule k).2 := by
  rw [lowHalf_encrypt, BitVec.xor_assoc, BitVec.xor_self, BitVec.xor_zero]

/-- The first round, undone by the half it keeps (R93). -/
theorem highHalf_eq_of_encrypt : highHalf p =
    highHalf (encrypt T k p) ^^^ roundOutput T (lowHalf p) (keySchedule k).1 := by
  rw [highHalf_encrypt, BitVec.xor_assoc, BitVec.xor_self, BitVec.xor_zero]

/-- The ciphertext determines first the low half of the plaintext, then the high half. -/
theorem encrypt_injective : Function.Injective (encrypt T k) := by
  intro p q h
  have hlow : lowHalf p = lowHalf q := by
    rw [lowHalf_eq_of_encrypt T k p, h, ← lowHalf_eq_of_encrypt]
  have hhigh : highHalf p = highHalf q := by
    rw [highHalf_eq_of_encrypt T k p, h, hlow, ← highHalf_eq_of_encrypt]
  exact eq_of_halves hhigh hlow

end

/-- Settles O35: Encrypt is injective on finitely many blocks. -/
theorem encryptIsABijectionForEachKey : Obligations.EncryptIsABijectionForEachKey := fun T k =>
  Finite.injective_iff_bijective.mp (encrypt_injective T k)

/-- Settles O31: the source's L2 and R2 are the halves that Encrypt joins. -/
theorem encryptIsTheSourcesTwoRounds : Obligations.EncryptIsTheSourcesTwoRounds := by
  intro T k p l0 r0 l1 r1 l2 r2 k1 k2 hl0 hr0 hk hl1 hr1 hl2 hr2
  obtain ⟨hk1, hk2⟩ := Prod.ext_iff.mp hk
  rw [setWidth_shiftRight_eq_highHalf] at hl0
  rw [setWidth_eq_lowHalf] at hr0
  have hhigh : highHalf (encrypt T k p) = r1 := by
    rw [highHalf_encrypt, hr1, hl0, hr0, ← hk1]
  have hlow : lowHalf (encrypt T k p) = r2 := by
    rw [lowHalf_encrypt, hhigh, hr2, hl1, hr0, ← hk2]
  refine ⟨?_, hhigh, hlow⟩
  rw [shiftLeft_or_eq_joinHalves, hl2, ← hhigh, ← hlow, joinHalves_highHalf_lowHalf]

/-! ### The zero key -/

/-- With the zero key both subkeys are 0 (R85). -/
theorem keySchedule_zero : keySchedule 0 = (0, 0) := rfl

/-- The halves of a zero-extended half-block (R52). -/
theorem highHalf_zext64 (c : Half) : highHalf (zext64 c) = 0 := extractLsb'_setWidth_above c 32

theorem lowHalf_zext64 (c : Half) : lowHalf (zext64 c) = c := field_zext64 (by decide) c

section
variable {T : Tables} {c : Half}

/-- With `c = f(0, 0)` the first round turns the high half `c` into 0, and the second turns the low
half 0 into `c` (R96). -/
theorem encrypt_zero_key (hc : roundOutput T 0 0 = c) :
    encrypt T 0 (joinHalves c 0) = zext64 c := by
  have hhigh : highHalf (encrypt T 0 (joinHalves c 0)) = 0 := by
    rw [highHalf_encrypt, highHalf_joinHalves, lowHalf_joinHalves, keySchedule_zero, hc]
    exact BitVec.xor_self
  have hlow : lowHalf (encrypt T 0 (joinHalves c 0)) = c := by
    rw [lowHalf_encrypt, hhigh, lowHalf_joinHalves, keySchedule_zero, hc]
    exact BitVec.zero_xor
  exact eq_of_halves (hhigh.trans (highHalf_zext64 c).symm) (hlow.trans (lowHalf_zext64 c).symm)

/-- A second encryption recovers the block of `encrypt_zero_key` only where the round takes `c` to
itself. -/
theorem roundOutput_eq_of_encrypt_twice (hc : roundOutput T 0 0 = c)
    (htwice : encrypt T 0 (encrypt T 0 (joinHalves c 0)) = joinHalves c 0) :
    roundOutput T c 0 = c := by
  have hhigh := congrArg highHalf htwice
  rw [encrypt_zero_key hc, highHalf_encrypt, highHalf_zext64, lowHalf_zext64, highHalf_joinHalves,
    keySchedule_zero] at hhigh
  exact BitVec.zero_xor.symm.trans hhigh

end

/-! ### Encrypting twice -/

/-- Tables the spec admits: every entry of SBOX_TABLES that R16 does not pin is 0, and PERM_TABLE
exchanges the values 1 and 16. -/
def zeroTailTables : Tables where
  sbox := Vector.ofFn fun t => Vector.ofFn (Fin.cases pinnedSbox[t] fun _ => 0)
  perm := Vector.ofFn (Equiv.swap 0 pinnedPerm)

theorem zeroTailTables_admissible : zeroTailTables.Admissible where
  sboxPinned t := by simp [zeroTailTables]
  permIsPermutation i j hij := by simpa [zeroTailTables] using hij
  permPinned := by simp [Tables.PermPinned, zeroTailTables]

/-- Settles O36, at the zero key and the block {c, 0} with `c = f(0, 0)`: `f(c, 0)` looks up entries that
these tables leave 0, so it is not `c`. -/
theorem encryptTwiceDoesNotGenerallyRecover : Obligations.EncryptTwiceDoesNotGenerallyRecover := by
  have hc : roundOutput zeroTailTables 0 0 = 0x3DEA72C4 := by decide +kernel
  have hne : roundOutput zeroTailTables 0x3DEA72C4 0 ≠ 0x3DEA72C4 := by decide +kernel
  exact ⟨zeroTailTables, zeroTailTables_admissible, 0, joinHalves 0x3DEA72C4 0,
    mt (roundOutput_eq_of_encrypt_twice hc) hne⟩

/-! ### ENCRYPT_BLOCK -/

section
variable (s : State) (a b : Port)

theorem resultOf_encryptBlock (T : Tables) :
    resultOf T (.encryptBlock a b) = some ⟨encrypt T (a.setWidth 56) b, 0⟩ := by
  rw [resultOf, field_eq_setWidth]

/-- ENCRYPT_BLOCK of a port A whose low 56 bits are `k` (R96). -/
theorem returns_encryptBlock {k : MasterKey} {y : Port} (ha : a.setWidth 56 = k)
    (hy : encrypt s.tables k b = y) : Returns s ⟨0b101, a, b⟩ y 0 := by
  subst ha hy
  exact returns_of_resultOf s (resultOf_encryptBlock a b s.tables)

end

/-- Settles O32: the subkeys of A[55:0] are fields of A. -/
theorem encryptClosedForm : Obligations.EncryptClosedForm := by
  intro s a b
  apply exec_of_resultOf
  rw [resultOf, encrypt, keySchedule_field]
  rfl

/-- Settles O33: A[63:56] not read, distinct blocks kept apart, and the zero key. -/
theorem encryptBlockTransaction : Obligations.EncryptBlockTransaction := by
  intro s a b h
  exact ⟨exec_of_resultOf (resultOf_encryptBlock a b s.tables), returns_encryptBlock s a b rfl rfl,
    fun _ _ => returns_encryptBlock s _ b BitVec.setWidth_append_eq_right rfl,
    fun _ => (encrypt_injective _ _).ne,
    returns_encryptBlock s _ _ rfl (encrypt_zero_key (roundOutput_zero h.sboxPinned))⟩

/-- Settles O34: a host reads back the subkeys and the two round outputs as they were zero-extended. -/
theorem encryptBlockAgreesWithItsParts : Obligations.EncryptBlockAgreesWithItsParts := by
  intro s k p
  have hsubkey {start : Nat} (h : start + 48 ≤ 56) :
      (k.setWidth 64).extractLsb' start 48 = k.extractLsb' start 48 :=
    BitVec.extractLsb'_setWidth_of_le (h.trans (by decide))
  have hround (r : Half) (ki : Wide) :
      ((roundOutput s.tables r ki).setWidth 64).setWidth 32 = roundOutput s.tables r ki :=
    setWidth_zext64 (by decide) _
  refine ⟨_, _, _, _,
    returns_deriveSubkeys s _ 0 (congrArg _ (hsubkey (by decide))) (congrArg _ (hsubkey (by decide))),
    returns_feistelRound s _ _ (setWidth_zext64 (by decide) _) (setWidth_zext64 (by decide) _) rfl,
    returns_feistelRound s _ _ (setWidth_zext64 (by decide) _) (setWidth_zext64 (by decide) _) rfl,
    returns_encryptBlock s _ p (setWidth_zext64 (by decide) k) ?_⟩
  rw [hround, hround]
  rfl

end Sys2Proof.Machine
end

section
/-! ## Proofs about outcomes (60_exceptions.md): the reserved OP as the one cause of a refusal, its mark
over a host's sequence, then the statements of R101, R110, R111 and R115 assembled from these facts. -/

namespace Sys2Proof.Machine

variable {s : State} {cs : List Command}

/-! ### The one cause of a refusal -/

/-- A command has no results exactly when its OP is the reserved one (R111). -/
theorem resultOf_decodeCommand_eq_none (T : Tables) (c : Command) :
    resultOf T (decodeCommand c) = none ↔ c.op.toNat = 7 :=
  (resultOf_eq_none T _).trans (decodeCommand_eq_reserved c)

/-- The seven OP values with a meaning are those other than the reserved one (R50). -/
theorem opCode_toNat_le_six_iff (op : OpCode) : op.toNat ≤ 6 ↔ op.toNat ≠ 7 := by
  have h : op.toNat < 8 := op.isLt
  omega

/-- A sequence has no reserved OP exactly when every OP is one with a meaning. -/
theorem not_exists_reserved_iff :
    (¬ ∃ c ∈ cs, c.op.toNat = 7) ↔ ∀ c ∈ cs, c.op.toNat ≤ 6 := by
  simp only [opCode_toNat_le_six_iff, not_exists, not_and, ne_eq]

theorem step_of_le_six (h : s.op.toNat ≤ 6) : ∃ r, step s = .next { s with result := some r } := by
  have hne : resultOf s.tables (decodeCommand s.command) ≠ none :=
    (resultOf_decodeCommand_eq_none _ _).not.mpr ((opCode_toNat_le_six_iff _).mp h)
  obtain ⟨r, hr⟩ := Option.ne_none_iff_exists'.mp hne
  exact ⟨r, exec_of_resultOf hr⟩

theorem step_of_reserved (h : s.op.toNat = 7) : step s = .refused .reservedOperation := by
  rw [step_eq, (resultOf_decodeCommand_eq_none _ _).mpr h]

/-- Settles O8: a step is refused exactly when its command has no results. -/
theorem outcomesAreAResultOrARefusal : Obligations.OutcomesAreAResultOrARefusal := fun _ =>
  ⟨fun h => let ⟨r, hr⟩ := step_of_le_six h; ⟨r.y0, r.y1, hr⟩, step_of_reserved⟩

/-! ### The refused mark over a host's sequence -/

/-- A sequence ends with the mark set exactly when the mark was set before it or it has OP = 7 (R110). -/
theorem transactAll_refused_iff (cs : List Command) (s : State) :
    (transactAll cs s).refused = true ↔ s.refused = true ∨ ∃ c ∈ cs, c.op.toNat = 7 := by
  induction cs generalizing s with
  | nil => simp
  | cons c cs ih =>
    rw [transactAll_cons, ih, transact_refused]
    simp [or_assoc]

/-- A sequence has a transaction without a result exactly when it has OP = 7 (R110, R111). -/
theorem none_mem_resultsOf_iff (cs : List Command) (s : State) :
    none ∈ resultsOf cs s ↔ ∃ c ∈ cs, c.op.toNat = 7 := by
  simp only [resultsOf_eq_map, List.mem_map, resultOf_decodeCommand_eq_none]

/-- Settles O48: the mark records a reserved OP anywhere in the sequence, and no later
transaction clears it. -/
theorem refusedMarkIsKept : Obligations.RefusedMarkIsKept := by
  refine ⟨fun _ _ _ => ⟨step_of_reserved rfl, ?_, ?_⟩, fun s cs h => ?_, fun s cs h => ?_⟩
  · rw [transact_result, resultOf_decodeCommand_eq_none]
    rfl
  · rw [transact_refused]
    exact Bool.or_true _
  · exact (transactAll_refused_iff cs s).mpr (.inl h)
  · have hreserved : ∃ c ∈ cs, c.op.toNat = 7 :=
      h.imp fun c => .imp_right (congrArg BitVec.toNat)
    exact ⟨(transactAll_refused_iff cs s).mpr (.inr hreserved),
      (none_mem_resultsOf_iff cs s).mpr hreserved⟩

/-- From a clear mark a sequence is safe exactly when it has no reserved OP. -/
theorem safeSequence_iff (h : s.refused = false) :
    SafeSequence cs s ↔ ∀ c ∈ cs, c.op.toNat ≤ 6 := by
  rw [SafeSequence, ← Bool.not_eq_true, transactAll_refused_iff, h, Bool.false_eq_true, false_or,
    not_exists_reserved_iff]

/-- Settles O49: the mark and a missing result have the one cause, a reserved OP in the sequence. -/
theorem acceptedSequencesAlwaysReturn : Obligations.AcceptedSequencesAlwaysReturn := by
  refine fun s cs hclear => ⟨safeSequence_iff hclear, fun h r hr => ?_⟩
  have hnone : none ∉ resultsOf cs s :=
    (none_mem_resultsOf_iff cs s).not.mpr (not_exists_reserved_iff.mpr h)
  obtain ⟨⟨y0, y1⟩, rfl⟩ := Option.ne_none_iff_exists'.mp (ne_of_mem_of_not_mem hr hnone)
  exact ⟨y0, y1, rfl⟩

/-! ### Several units -/

/-- Settles O59: an event replaces the one list entry it names. -/
theorem unitsDoNotAffectOneAnother : Obligations.UnitsDoNotAffectOneAnother := fun _ _ _ _ =>
  ⟨rfl, List.length_modify .., fun hjk => List.getElem?_modify_ne _ _ hjk.symm,
    List.getElem?_modify_eq ..⟩

end Sys2Proof.Machine
end

section
/-! ## Proofs about reset and hazards (70_reset_and_hazards.md): what reset leaves of a host's sequence,
and the clocked layer as a queue: the transactions in progress fall due in issue order, so each
event passes on their outcomes without loss or exchange. Then the statements of R118, R119 and R124
assembled from these facts. -/

namespace Sys2Proof.Machine

/-! ### Reset in a host's sequence -/

/-- Settles O53: results are a function of the commands and the tables, and reset keeps the tables. -/
theorem assertedResetHasNoEffectOnLaterResults :
    Obligations.AssertedResetHasNoEffectOnLaterResults := by
  intro s cs
  refine ⟨assertReset_tables s, ?_⟩
  rw [resultsOf_eq_map, resultsOf_eq_map, assertReset_tables]

/-- Settles O54, the case of R21 in which one of the two histories is empty. -/
theorem firstTransactionIsLikeAnyOther : Obligations.FirstTransactionIsLikeAnyOther :=
  fun history c => resultsDependOnCommandAndTablesOnly State.reset State.reset [] history c rfl

/-! ### The transactions in progress, in the order they fall due -/

/-- The first to fall due stand first in the list, and all fall due within `n` cycles. -/
structure FallDueInOrder (n : Nat) (fs : List InFlight) : Prop where
  ordered : fs.Pairwise fun f g => f.left ≤ g.left
  within : ∀ f ∈ fs, f.left ≤ n

section
variable {n : Nat} {fs : List InFlight}

theorem FallDueInOrder.nil (n : Nat) : FallDueInOrder n [] := ⟨.nil, nofun⟩

theorem FallDueInOrder.mono (h : FallDueInOrder n fs) {m : Nat} (hnm : n ≤ m) :
    FallDueInOrder m fs := ⟨h.ordered, fun f hf => (h.within f hf).trans hnm⟩

theorem FallDueInOrder.filter (h : FallDueInOrder n fs) (p : InFlight → Bool) :
    FallDueInOrder n (fs.filter p) :=
  ⟨h.ordered.filter p, fun f hf => h.within f (List.mem_of_mem_filter hf)⟩

/-- A transaction that takes the longest of all joins the end. -/
theorem FallDueInOrder.append_last (h : FallDueInOrder n fs) (c : Command) :
    FallDueInOrder n (fs ++ [⟨c, n⟩]) where
  ordered := List.pairwise_append.mpr
    ⟨h.ordered, List.pairwise_singleton ..,
      fun f hf _ hg => List.mem_singleton.mp hg ▸ h.within f hf⟩
  within := List.forall_mem_append.mpr ⟨h.within, List.forall_mem_singleton.mpr le_rfl⟩

/-- A cycle brings all of them one cycle nearer. -/
theorem FallDueInOrder.map_pred (h : FallDueInOrder n fs) :
    FallDueInOrder (n - 1) (fs.map fun f => { f with left := f.left - 1 }) where
  ordered := List.pairwise_map.mpr (h.ordered.imp fun hfg => Nat.sub_le_sub_right hfg 1)
  within := List.forall_mem_map.mpr fun f hf => Nat.sub_le_sub_right (h.within f hf) 1

/-- Those due are the first of the list, so taking them out keeps the order. -/
theorem filter_append_filter_of_ordered (h : fs.Pairwise fun f g => f.left ≤ g.left) :
    fs.filter (fun f => f.left == 0) ++ fs.filter (fun f => f.left != 0) = fs := by
  induction fs with
  | nil => rfl
  | cons f fs ih =>
    obtain ⟨hf, hfs⟩ := List.pairwise_cons.mp h
    by_cases hdue : f.left = 0
    · simp [hdue, ih hfs]
    · have hlater : ∀ g ∈ fs, g.left ≠ 0 := fun g hg => by
        have := hf g hg
        omega
      have hnone : fs.filter (fun g => g.left == 0) = [] := by simpa using hlater
      have hall : fs.filter (fun g => g.left != 0) = fs := by simpa using hlater
      simp [hdue, hnone, hall]

end

/-! ### A unit between two events -/

/-- Between two events a unit has transactions in progress that fall due in issue order, within `n`
cycles, and none that is due already. -/
structure CoreUnit.InOrder (n : Nat) (u : CoreUnit) : Prop where
  fallDueInOrder : FallDueInOrder n u.inFlight
  notDue : ∀ f ∈ u.inFlight, f.left ≠ 0

/-- All the outcomes a unit owes: those returned, and those of the transactions in progress. -/
def CoreUnit.outcomes (T : Tables) (u : CoreUnit) : List (Option Result) :=
  u.returned ++ u.inFlight.map fun f => outcomeOf T f.command

section
variable {n : Nat} {L : Latency} {T : Tables} {u : CoreUnit} {es : List UnitEvent}

/-- A unit with nothing in progress, as after power-up and after a reset. -/
theorem CoreUnit.inOrder_of_inFlight_eq_nil (n : Nat) (h : u.inFlight = []) : u.InOrder n :=
  ⟨h ▸ .nil n, by simp [h]⟩

theorem CoreUnit.InOrder.mono (h : u.InOrder n) {m : Nat} (hnm : n ≤ m) : u.InOrder m :=
  ⟨h.fallDueInOrder.mono hnm, h.notDue⟩

/-- What falls due within no cycle is due already. -/
theorem CoreUnit.InOrder.inFlight_eq_nil (h : u.InOrder 0) : u.inFlight = [] :=
  List.eq_nil_iff_forall_not_mem.mpr fun f hf =>
    h.notDue f hf (Nat.le_zero.mp (h.fallDueInOrder.within f hf))

theorem CoreUnit.outcomes_of_inFlight_eq_nil (T : Tables) (h : u.inFlight = []) :
    u.outcomes T = u.returned := by
  rw [CoreUnit.outcomes, h, List.map_nil, List.append_nil]

/-! #### Returning what is due -/

theorem CoreUnit.inOrder_returnDue (T : Tables) (h : FallDueInOrder n u.inFlight) :
    (u.returnDue T).InOrder n :=
  ⟨h.filter _, fun _ hf => bne_iff_ne.mp (List.mem_filter.mp hf).2⟩

/-- A transaction returned keeps its place among the outcomes. -/
theorem CoreUnit.outcomes_returnDue (T : Tables) (h : FallDueInOrder n u.inFlight) :
    (u.returnDue T).outcomes T = u.outcomes T := by
  simp only [CoreUnit.outcomes, CoreUnit.returnDue]
  rw [List.append_assoc, ← List.map_append, filter_append_filter_of_ordered h.ordered]

theorem CoreUnit.returnDue_of_notDue (T : Tables) (h : ∀ f ∈ u.inFlight, f.left ≠ 0) :
    u.returnDue T = u := by
  have hnone : u.inFlight.filter (fun f => f.left == 0) = [] := by simpa using h
  have hall : u.inFlight.filter (fun f => f.left != 0) = u.inFlight := by simpa using h
  rw [CoreUnit.returnDue, hnone, hall, List.map_nil, List.append_nil]

/-! #### The events -/

theorem CoreUnit.InOrder.issue (h : u.InOrder (cyclesOf L)) (T : Tables) (c : Command) :
    (u.issue L T c).InOrder (cyclesOf L) :=
  inOrder_returnDue T (h.fallDueInOrder.append_last c)

theorem CoreUnit.InOrder.outcomes_issue (h : u.InOrder (cyclesOf L)) (T : Tables) (c : Command) :
    (u.issue L T c).outcomes T = u.outcomes T ++ [outcomeOf T c] := by
  rw [CoreUnit.issue, outcomes_returnDue T (h.fallDueInOrder.append_last c)]
  simp [CoreUnit.outcomes]

theorem CoreUnit.InOrder.tick (h : u.InOrder n) (T : Tables) : (u.tick T).InOrder (n - 1) :=
  inOrder_returnDue T h.fallDueInOrder.map_pred

theorem CoreUnit.InOrder.outcomes_tick (h : u.InOrder n) (T : Tables) :
    (u.tick T).outcomes T = u.outcomes T := by
  rw [CoreUnit.tick, outcomes_returnDue T h.fallDueInOrder.map_pred]
  simp [CoreUnit.outcomes]

/-! #### Schedules -/

/-- A schedule without reset keeps the order and adds the outcomes of the commands it issues. -/
theorem CoreUnit.InOrder.run (h : u.InOrder (cyclesOf L)) (T : Tables)
    (hes : UnitEvent.assertReset ∉ es) :
    (u.run L T es).InOrder (cyclesOf L) ∧
      (u.run L T es).outcomes T = u.outcomes T ++ (issuedBy es).map (outcomeOf T) := by
  induction es generalizing u with
  | nil => exact ⟨h, (List.append_nil _).symm⟩
  | cons e es ih =>
    rw [List.mem_cons, not_or] at hes
    obtain ⟨he, hes⟩ := hes
    rw [run_cons]
    cases e with
    | issue c =>
      obtain ⟨inOrder, houtcomes⟩ := ih (h.issue T c) hes
      refine ⟨inOrder, houtcomes.trans ?_⟩
      rw [h.outcomes_issue, List.append_assoc]
      rfl
    | tick =>
      obtain ⟨inOrder, houtcomes⟩ := ih ((h.tick T).mono (Nat.sub_le ..)) hes
      refine ⟨inOrder, houtcomes.trans ?_⟩
      rw [h.outcomes_tick]
      rfl
    | assertReset => exact absurd rfl he

/-- Cycles alone: the time left runs down, and no outcome is lost. -/
theorem CoreUnit.InOrder.run_ticks (h : u.InOrder n) (L : Latency) (T : Tables) (m : Nat) :
    (u.run L T (List.replicate m .tick)).InOrder (n - m) ∧
      (u.run L T (List.replicate m .tick)).outcomes T = u.outcomes T := by
  induction m generalizing u n with
  | zero => exact ⟨h, rfl⟩
  | succ m ih =>
    obtain ⟨inOrder, houtcomes⟩ := ih (h.tick T)
    rw [Nat.sub_sub, Nat.add_comm] at inOrder
    exact ⟨inOrder, houtcomes.trans (h.outcomes_tick T)⟩

/-- As many cycles as the longest of the transactions in progress takes return them all, in order. -/
theorem CoreUnit.InOrder.drain (h : u.InOrder n) (L : Latency) (T : Tables) :
    (u.run L T (List.replicate n .tick)).inFlight = [] ∧
      (u.run L T (List.replicate n .tick)).returned = u.outcomes T := by
  obtain ⟨inOrder, houtcomes⟩ := h.run_ticks L T n
  rw [Nat.sub_self] at inOrder
  have hnil := inOrder.inFlight_eq_nil
  exact ⟨hnil, (outcomes_of_inFlight_eq_nil T hnil).symm.trans houtcomes⟩

/-- Cycles before any transaction in progress falls due return nothing. -/
theorem CoreUnit.returned_run_ticks_of_lt (L : Latency) (T : Tables) {m : Nat}
    (h : ∀ f ∈ u.inFlight, m < f.left) :
    (u.run L T (List.replicate m .tick)).returned = u.returned := by
  induction m generalizing u with
  | zero => rfl
  | succ m ih =>
    have later : ∀ f ∈ u.inFlight.map fun f => { f with left := f.left - 1 }, m < f.left :=
      List.forall_mem_map.mpr fun f hf => Nat.lt_sub_of_add_lt (h f hf)
    have hstay := returnDue_of_notDue (u := { u with inFlight := _ }) T fun f hf =>
      Nat.ne_zero_of_lt (later f hf)
    rw [List.replicate_succ, run_cons, apply_tick, CoreUnit.tick, hstay, ih later]

end

/-! ### The statements -/

theorem CoreUnit.idle_inOrder (n : Nat) : CoreUnit.idle.InOrder n :=
  CoreUnit.inOrder_of_inFlight_eq_nil n rfl

/-- Settles O55, by induction on the schedule: a unit after power-up owes nothing. -/
theorem pipelinedUnitRefinesTheAtomicModel : Obligations.PipelinedUnitRefinesTheAtomicModel :=
  fun L T _ hes => ((CoreUnit.idle_inOrder (cyclesOf L)).run T hes).2

/-- Settles O56: cycles drain the unit in order; without a cycle of latency nothing is ever in
progress. -/
theorem everyIssuedTransactionReturnsWithinTheLatency :
    Obligations.EveryIssuedTransactionReturnsWithinTheLatency := by
  intro L T es hes
  obtain ⟨inOrder, houtcomes⟩ := (CoreUnit.idle_inOrder (cyclesOf L)).run T hes
  obtain ⟨hnil, hreturned⟩ := inOrder.drain L T
  obtain ⟨combinational, -⟩ :=
    (CoreUnit.idle_inOrder (cyclesOf .combinational)).run (L := .combinational) T hes
  rw [run_append]
  exact ⟨⟨hnil, hreturned.trans houtcomes⟩, combinational.inFlight_eq_nil⟩

/-- Issued on an idle unit, a transaction with cycles to take is alone in progress. -/
theorem CoreUnit.issue_idle {L : Latency} (T : Tables) (c : Command) (hL : cyclesOf L ≠ 0) :
    CoreUnit.idle.issue L T c = ⟨[⟨c, cyclesOf L⟩], []⟩ :=
  CoreUnit.returnDue_of_notDue T (List.forall_mem_singleton.mpr hL)

/-- Settles O57: before its last cycle the one transaction is not due, and then the unit is drained. -/
theorem aTransactionTakesExactlyItsLatency : Obligations.ATransactionTakesExactlyItsLatency := by
  intro T c n m hmn
  have hissue : UnitEvent.assertReset ∉ [UnitEvent.issue c] := by simp
  constructor
  · rw [run_cons, apply_issue, CoreUnit.issue_idle T c (Nat.ne_zero_of_lt hmn)]
    exact CoreUnit.returned_run_ticks_of_lt _ T (List.forall_mem_singleton.mpr hmn)
  · exact (everyIssuedTransactionReturnsWithinTheLatency (.cycles n) T _ hissue).1.2

/-- Settles O58: after the reset nothing is in progress, so the unit owes what it had returned. -/
theorem resetDropsTransactionsInProgress : Obligations.ResetDropsTransactionsInProgress := by
  intro L T u es hes
  have inOrder : u.assertReset.InOrder (cyclesOf L) :=
    CoreUnit.inOrder_of_inFlight_eq_nil _ (unit_assertReset_inFlight u)
  have houtcomes : u.assertReset.outcomes T = u.returned :=
    CoreUnit.outcomes_of_inFlight_eq_nil T (unit_assertReset_inFlight u)
  refine ⟨unit_assertReset_returned u, (inOrder.run T hes).2.trans ?_⟩
  rw [houtcomes]

end Sys2Proof.Machine
end
